-- ==== Sys2Proof/Word.lean ====
section
/-! DEFINITION. The two word types of the block (00_scope.md R8, R12): 16-bit words, 12-bit word addresses. -/

namespace Sys2Proof

/-- `Word`, a natural in [0, 2^16) (R12): AC, IR, MBR, IN, OUT and every memory word. -/
abbrev Word := BitVec 16

/-- `Addr`, a natural in [0, 2^12) (R12): PC, MAR and the operand field X of an instruction. -/
abbrev Addr := BitVec 12

end Sys2Proof
end

