-- ==== Sys2Proof/Syntax.lean ====
section
/-! DEFINITION. The instructions (30_encoding.md R102), the opcodes and the SkipCond conditions. -/

namespace Sys2Proof

/-- The four SkipCond conditions, selected by `IR[11:10]` (30_encoding.md R105). -/
inductive Cond where
  /-- 00: AC < 0 (signed). -/
  | neg
  /-- 01: AC = 0. -/
  | zero
  /-- 10: AC > 0 (signed). -/
  | pos
  /-- 11: AC ≠ 0. -/
  | nonZero
  deriving DecidableEq, Repr

/-- The fifteen opcodes that have an instruction table entry (R102); 90_conflicts.md C1 fixes the count. -/
inductive Opcode where
  | jns | load | store | add | subt | input | output | halt | skipCond | jump | loadImmi | addI | jumpI | loadI | storeI
  deriving DecidableEq, Repr

/-- One constructor per row of spec/opcode_table.json. `x` is the operand field `IR[11:0]`.
Input, Output, Halt and the undefined opcode keep their ignored `x`, and SkipCond its ignored `IR[9:0]` (R101):
those bits do not change what runs, but they stand in the word and so in IR. -/
inductive Instr where
  /-- 0x0, jump and store (44_control.md R281). -/
  | jns (x : Addr)
  /-- 0x1 (42_data_transfer.md R231). -/
  | load (x : Addr)
  /-- 0x2 (R232). -/
  | store (x : Addr)
  /-- 0x3 (43_arithmetic.md R261). -/
  | add (x : Addr)
  /-- 0x4 (R262). -/
  | subt (x : Addr)
  /-- 0x5 (45_io_system.md R310). -/
  | input (x : Addr)
  /-- 0x6 (R315). -/
  | output (x : Addr)
  /-- 0x7 (R316). -/
  | halt (x : Addr)
  /-- 0x8 (44_control.md R284): the condition and the ignored low ten bits. -/
  | skipCond (c : Cond) (ignored : BitVec 10)
  /-- 0x9 (R287). -/
  | jump (x : Addr)
  /-- 0xA (42_data_transfer.md R233). -/
  | loadImmi (x : Addr)
  /-- 0xB (43_arithmetic.md R263). -/
  | addI (x : Addr)
  /-- 0xC (44_control.md R288). -/
  | jumpI (x : Addr)
  /-- 0xD (42_data_transfer.md R235). -/
  | loadI (x : Addr)
  /-- 0xE (R236). -/
  | storeI (x : Addr)
  /-- Assembler spelling of JnS (44_control.md R282); no decoder output. -/
  | adr (x : Addr)
  /-- Assembler spelling of LoadImmi 0 (42_data_transfer.md R234); no decoder output. -/
  | clear
  /-- 0xF, the words 0xF000 to 0xFFFF, which fault (45_io_system.md R317). -/
  | undefinedOpcode0xF (x : Addr)
  deriving DecidableEq, Repr

end Sys2Proof
end

