-- ==== Sys2Proof/WellFormed.lean ====
section
/-! DEFINITION. Which terms of `Instr` name an instruction of the block, as against a second assembler spelling of one. -/

namespace Sys2Proof

/-- The instruction a spelling stands for: `Adr X` is `JnS X` and `Clear` is `LoadImmi 0` (30_encoding.md R124). -/
def Instr.canonical : Instr → Instr
  | .jns x => .jns x
  | .load x => .load x
  | .store x => .store x
  | .add x => .add x
  | .subt x => .subt x
  | .input x => .input x
  | .output x => .output x
  | .halt x => .halt x
  | .skipCond c ignored => .skipCond c ignored
  | .jump x => .jump x
  | .loadImmi x => .loadImmi x
  | .addI x => .addI x
  | .jumpI x => .jumpI x
  | .loadI x => .loadI x
  | .storeI x => .storeI x
  | .adr x => .jns x
  | .clear => .loadImmi 0
  | .undefinedOpcode0xF x => .undefinedOpcode0xF x

/-- A well-formed instruction is one a word can decode to. Operand fields are bit vectors of the width the format gives
them (30_encoding.md R100), so the one check left is that the term is no alias: "The block has no separate Clear opcode"
(R234), and an executed Adr "is a JnS" (R282). -/
def Instr.wellFormed (i : Instr) : Bool := i.canonical = i

end Sys2Proof
end

