-- ==== Sys2Proof/Decode.lean ====
section
/-! DEFINITION. The decoder (30_encoding.md R100 to R105), total on every word, and after it the encoder (R125). -/

namespace Sys2Proof

/-- `IR[15:12]`, which is `IR >> 12` (R103). -/
def opcodeField (w : Word) : BitVec 4 := w.extractLsb' 12 4

/-- `X = IR[11:0]` (R101). -/
def operandField (w : Word) : Addr := w.extractLsb' 0 12

/-- The instruction table's key lookup (R102, R103): `none` for opcode 0xF, which has no entry. -/
def opcodeOfField (op : BitVec 4) : Option Opcode :=
  match op.toNat with
  | 0x0 => some .jns
  | 0x1 => some .load
  | 0x2 => some .store
  | 0x3 => some .add
  | 0x4 => some .subt
  | 0x5 => some .input
  | 0x6 => some .output
  | 0x7 => some .halt
  | 0x8 => some .skipCond
  | 0x9 => some .jump
  | 0xA => some .loadImmi
  | 0xB => some .addI
  | 0xC => some .jumpI
  | 0xD => some .loadI
  | 0xE => some .storeI
  | _ => none

/-- The table entry an instruction word selects; it depends on `IR[15:12]` alone (R103). -/
def opcodeOf (w : Word) : Option Opcode := opcodeOfField (opcodeField w)

/-- The condition that `X[11:10]`, which is `IR[11:10]`, selects (R105). -/
def condOfOperand (x : Addr) : Cond :=
  match (x.extractLsb' 10 2).toNat with
  | 0 => .neg
  | 1 => .zero
  | 2 => .pos
  | _ => .nonZero

/-- The instruction a table entry makes with an operand field (R101). -/
def instrOf (op : Opcode) (x : Addr) : Instr :=
  match op with
  | .jns => .jns x
  | .load => .load x
  | .store => .store x
  | .add => .add x
  | .subt => .subt x
  | .input => .input x
  | .output => .output x
  | .halt => .halt x
  | .skipCond => .skipCond (condOfOperand x) (x.extractLsb' 0 10)
  | .jump => .jump x
  | .loadImmi => .loadImmi x
  | .addI => .addI x
  | .jumpI => .jumpI x
  | .loadI => .loadI x
  | .storeI => .storeI x

/-- The decoder. Every 16-bit word is an instruction word (R100); opcode 0xF is rejected by name as
`undefinedOpcode0xF`, and nothing else is (R104). -/
def decodeWord (w : Word) : Instr :=
  match opcodeOf w with
  | some op => instrOf op (operandField w)
  | none => .undefinedOpcode0xF (operandField w)

/-- The word that `nbits` bits with the value `w` make: bits at `nbits` and above are 0. -/
def tableWord (nbits w : Nat) : Word := BitVec.ofNat 16 (w % 2 ^ nbits)

/-- The decoder on a word numbered as spec/opcode_table.json numbers it; an instruction is one 16-bit word, so more than
16 bits are no instruction (log entry 22). -/
def decodeTableWord (nbits w : Nat) : Option Instr :=
  if nbits ≤ 16 then some (decodeWord (tableWord nbits w)) else none

/-! The encoder. -/

/-- `IR[15:12]` of a table entry (R102, "bit-exact"). -/
def Opcode.bits : Opcode → BitVec 4
  | .jns => 0x0
  | .load => 0x1
  | .store => 0x2
  | .add => 0x3
  | .subt => 0x4
  | .input => 0x5
  | .output => 0x6
  | .halt => 0x7
  | .skipCond => 0x8
  | .jump => 0x9
  | .loadImmi => 0xA
  | .addI => 0xB
  | .jumpI => 0xC
  | .loadI => 0xD
  | .storeI => 0xE

/-- `IR[11:10]` of a SkipCond condition (R105). -/
def Cond.bits : Cond → BitVec 2
  | .neg => 0b00
  | .zero => 0b01
  | .pos => 0b10
  | .nonZero => 0b11

/-- The operand field of SkipCond: the condition above the ignored bits (R101, R105). -/
def skipCondOperand (c : Cond) (ignored : BitVec 10) : Addr := c.bits ++ ignored

/-- The table entry of an instruction; the undefined opcode has none (R102). -/
def Instr.opcode : Instr → Option Opcode
  | .jns _ => some .jns
  | .load _ => some .load
  | .store _ => some .store
  | .add _ => some .add
  | .subt _ => some .subt
  | .input _ => some .input
  | .output _ => some .output
  | .halt _ => some .halt
  | .skipCond _ _ => some .skipCond
  | .jump _ => some .jump
  | .loadImmi _ => some .loadImmi
  | .addI _ => some .addI
  | .jumpI _ => some .jumpI
  | .loadI _ => some .loadI
  | .storeI _ => some .storeI
  | .adr _ => some .jns
  | .clear => some .loadImmi
  | .undefinedOpcode0xF _ => none

/-- `IR[15:12]` of an instruction: its entry's bits, or 0xF (R102). -/
def Instr.opcodeBits (i : Instr) : BitVec 4 :=
  match i.opcode with
  | some op => op.bits
  | none => 0xF

/-- `IR[11:0]` of an instruction (R101, R124). -/
def Instr.operandBits : Instr → Addr
  | .jns x => x
  | .load x => x
  | .store x => x
  | .add x => x
  | .subt x => x
  | .input x => x
  | .output x => x
  | .halt x => x
  | .skipCond c ignored => skipCondOperand c ignored
  | .jump x => x
  | .loadImmi x => x
  | .addI x => x
  | .jumpI x => x
  | .loadI x => x
  | .storeI x => x
  | .adr x => x
  | .clear => 0
  | .undefinedOpcode0xF x => x

/-- The encoder: the word is `{op, X}` (R100, R125). -/
def encode (i : Instr) : Word := i.opcodeBits ++ i.operandBits

/-! The opcode table as the spec prints it (R102), for comparison with the decoder. -/

/-- One row of R102: the words it matches are those with `w & mask = pattern`. -/
structure OpcodeRow where
  pattern : Word
  mask : Word
  entry : Option Opcode
  operandRequired : Bool
  deriving DecidableEq, Repr

/-- R102, row by row. `operandRequired` is its "operand" column. -/
def opcodeRows : List OpcodeRow :=
  [⟨0x0000, 0xF000, some .jns, true⟩, ⟨0x1000, 0xF000, some .load, true⟩, ⟨0x2000, 0xF000, some .store, true⟩,
   ⟨0x3000, 0xF000, some .add, true⟩, ⟨0x4000, 0xF000, some .subt, true⟩, ⟨0x5000, 0xF000, some .input, false⟩,
   ⟨0x6000, 0xF000, some .output, false⟩, ⟨0x7000, 0xF000, some .halt, false⟩] ++
  [⟨0x8000, 0xF000, some .skipCond, true⟩, ⟨0x9000, 0xF000, some .jump, true⟩, ⟨0xA000, 0xF000, some .loadImmi, true⟩,
   ⟨0xB000, 0xF000, some .addI, true⟩, ⟨0xC000, 0xF000, some .jumpI, true⟩, ⟨0xD000, 0xF000, some .loadI, true⟩,
   ⟨0xE000, 0xF000, some .storeI, true⟩, ⟨0xF000, 0xF000, none, false⟩]

/-- Whether a row's match and mask select a word. -/
def OpcodeRow.selects (r : OpcodeRow) (w : Word) : Bool := w &&& r.mask = r.pattern

end Sys2Proof
end

