-- ==== Sys2Proof/Config.lean ====
section
/-! DEFINITION. What an implementation of the block fixes: the open parameters of 00_scope.md R9 and the sizes of R8. -/

namespace Sys2Proof

/-- Memory size in words (R8, R70): addresses 0x000 to 0xFFF. -/
def memWords : Nat := 4096

/-- The implementation parameters. `input_source` and `origin`, the other two open parameters of R9, are not here:
the input answers are `State.inputs` (log entry 4) and the origin is an argument of `load`. -/
structure Config where
  /-- `jns_ac_write` (R9, 44_control.md R281): whether JnS ends with AC holding X + 1. -/
  jnsAcWrite : Bool
  deriving DecidableEq, Repr

/-- The default parameters (R9): `jns_ac_write = true`. -/
def Config.default : Config := { jnsAcWrite := true }

end Sys2Proof
end

