-- ==== Sys2Proof/Machine/State.lean ====
section
/-! DEFINITION. The state of the block (10_state.md), as plain data, and its power-on value (70_reset_and_hazards.md R382). -/

namespace Sys2Proof.Machine

/-- No step of this block ends in a host-level fault, so this type is empty (log entry 12). A runtime fault of the block
is a state, `halted = 1` with a fault code (60_exceptions.md R341), and `exec` answers that state as its next state.
Nobody raises a `Fault`; that is safe, because nothing is hidden behind one. -/
inductive Fault where
  deriving DecidableEq, Repr

/-- What the model turns away. -/
inductive Refusal where
  /-- Raised by an arm of `exec` for an instruction without a meaning. Safe: nothing is claimed of it. -/
  | notModelled (mnemonic : String)
  /-- Raised by `microStep`, and by `step` in the middle of an instruction, in a state in which R184 names no micro-op: upc
  above 5 with no decoded instruction, or past its step-end. R186: "A model may treat a state outside the invariant as
  unreachable and refuse it" (U19). Safe. -/
  | outsideInvariant
  /-- Raised by the host port for a select code that names no register (R31, R214, U4). Safe: the spec refuses it. -/
  | noSuchRegister
  /-- Raised by the host port for an address outside [0, 0xFFF] (R79, R214, U4). Safe: the spec refuses it. -/
  | addressOutOfRange
  /-- Raised by the host port for a non-numeric value (R79, R214, U4). Safe: the spec refuses it. -/
  | nonNumericValue
  /-- Raised by `load` for a program that does not fit in memory (R381, U3). Safe: the spec refuses it. -/
  | programDoesNotFit
  deriving DecidableEq, Repr

/-- The input-interrupt state, `intr` (R39). -/
inductive Intr where
  | idle | needsValue | needsLoad
  deriving DecidableEq, Repr

/-- The fault code (R40): 0, 1 and 2. Code 3 is unused. -/
inductive FaultCode where
  | none | unsupportedOpcode | unsupportedSkipCond
  deriving DecidableEq, Repr

/-- One memory word at an address. The block has no bytes (20_memory.md R72), so its cell is the word (log entry 1). -/
abbrev Cell := Nat × Word

/-- Memory: the words that are not zero, addresses strictly rising (log entries 1 and 2). -/
abbrev Memory := List Cell

/-- The state of the block. The last three fields are the model's own: the parameters it was built with, and the two
sides of its host (the answers its input source will give, and the output events it has seen). -/
structure State where
  /-- Accumulator (R30). -/
  ac : Word
  /-- Instruction register (R30). -/
  ir : Word
  /-- Memory buffer register (R30). -/
  mbr : Word
  /-- Program counter (R30, R34). -/
  pc : Addr
  /-- Memory address register (R30). -/
  mar : Addr
  /-- IN (R30). -/
  inReg : Word
  /-- OUT (R30). -/
  outReg : Word
  /-- The 4096-word memory (R44, R70). -/
  mem : Memory
  /-- The halted flag (R35). -/
  halted : Bool
  /-- The micro-program counter (R36). -/
  upc : BitVec 4
  /-- The decoded-instruction latch (R37). -/
  dec : Option Opcode
  /-- The comparison-result flag (R38). -/
  cmp : Bool
  /-- The input-interrupt state (R39). -/
  intr : Intr
  /-- The fault code (R40). -/
  fault : FaultCode
  /-- `last_origin`, the origin of the last successful load (R380, R381). -/
  origin : Addr
  /-- The implementation's parameters (R9); nothing in the block writes it (log entry 6). -/
  cfg : Config
  /-- The host's answers to the coming input attempts, in order; when it is empty the source is not ready (log entry 4). -/
  inputs : List (Option Int)
  /-- The values of the output events so far, oldest first (45_io_system.md R315, log entry 5). -/
  outputs : List Word
  deriving DecidableEq, Repr

/-- The power-on state (R382): every value is the one R382 or R47 states; `cfg` is the default of R9; the host has given
no answer and has seen no output (log entries 4, 5, 6 and 14). -/
def State.reset : State :=
  { ac := 0, ir := 0, mbr := 0, pc := 0, mar := 0, inReg := 0, outReg := 0, mem := [], halted := false, upc := 0
    dec := none, cmp := false, intr := .idle, fault := .none, origin := 0, cfg := Config.default, inputs := [], outputs := [] }

end Sys2Proof.Machine
end

