-- ==== Sys2Proof/Machine/Operands.lean ====
section
/-! DEFINITION. The operand forms of 30_encoding.md R101 and the width changes of 10_state.md R32 they use. -/

namespace Sys2Proof.Machine

/-- `zext_16` of a 12-bit value (00_scope.md R12). -/
def zext16 (x : Addr) : Word := x.setWidth 16

/-- What a 12-bit register keeps of a 16-bit value: its low 12 bits (R32, 40_alu.md R156). -/
def low12 (w : Word) : Addr := w.setWidth 12

/-- The live operand field X of the instruction register (R101, R197). -/
def State.operand (s : State) : Addr := operandField s.ir

/-- LoadImmi's operand: X zero-extended, `IR & 0x0FFF` (R101(b), R153). -/
def immediate (x : Addr) : Word := zext16 x

/-- SkipCond's operand: `IR & 0xC00`, the two selector bits in place (R101(c), R105, R155). -/
def selector (x : Addr) : Addr := x &&& 0xC00

/-- The integer `v` as a word: `v mod 2^16`, which for a negative `v` is its two's complement (45_io_system.md R314). -/
def wordOfInt (v : Int) : Word := BitVec.ofInt 16 v

end Sys2Proof.Machine
end

