-- ==== Sys2Proof/Machine/Flags.lean ====
section
/-! DEFINITION. The comparison primitives and the condition selection (40_alu.md R154, R155). The comparison flag is the only
flag of the block (10_state.md R41). -/

namespace Sys2Proof.Machine

/-- AC_NEG: "top bit of AC set". -/
def acNeg (ac : Word) : Bool := ac.msb

/-- AC_ZERO: "AC=0". -/
def acZero (ac : Word) : Bool := ac = 0

/-- AC_POS: "AC≠0 and top bit clear". -/
def acPos (ac : Word) : Bool := ac ≠ 0 && !ac.msb

/-- AC_NON_ZERO: "AC≠0". -/
def acNonZero (ac : Word) : Bool := ac ≠ 0

/-- The comparison a condition names (R105). -/
def condHolds (c : Cond) (ac : Word) : Bool :=
  match c with
  | .neg => acNeg ac
  | .zero => acZero ac
  | .pos => acPos ac
  | .nonZero => acNonZero ac

/-- R155's case on the selector. The last arm is the source's "unrecognized pattern"; 90_conflicts.md C4 keeps it though no
operand reaches it. -/
def selectedCond (x : Addr) : Option Cond :=
  if selector x = 0x000 then some .neg
  else if selector x = 0x400 then some .zero
  else if selector x = 0x800 then some .pos
  else if selector x = 0xC00 then some .nonZero
  else none

/-- `cond(IR, AC)` (R155), on the operand field of IR; `none` is the arm that raises fault 2. -/
def evalCond (x : Addr) (ac : Word) : Option Bool := (selectedCond x).map fun c => condHolds c ac

end Sys2Proof.Machine
end

