-- ==== Sys2Proof/Machine/Alu.lean ====
section
/-! DEFINITION. The ALU's arithmetic (40_alu.md R150 to R153, R156). Its comparisons are in Flags.lean, and it has no other
operation (R157): "Its operation set is closed" (R150). Each is a function of AC, MBR and the operand field of IR, with no
state of its own. -/

namespace Sys2Proof.Machine

/-- ADD (R151): `(AC + MBR) mod 2^16`. -/
def aluAdd (ac mbr : Word) : Word := ac + mbr

/-- SUB (R152): `(AC - MBR) mod 2^16`. -/
def aluSub (ac mbr : Word) : Word := ac - mbr

/-- LOAD_IMMI (R153): `IR & 0x0FFF`, on the operand field of IR. -/
def aluLoadImmi (x : Addr) : Word := immediate x

end Sys2Proof.Machine
end

