-- ==== Sys2Proof/Machine/Ops.lean ====
section
/-! DEFINITION. The named operations over memory, the registers and the control state: reads and writes, raising a fault, reset
and load. -/

namespace Sys2Proof.Machine

/-! Memory (20_memory.md). -/

/-- What an address with no cell reads as: 0, which is what load and the power-on state leave outside the image (R381,
R382; log entry 2). -/
def unlistedWord : Word := 0

/-- `MemRead(addr, 1)` (00_scope.md R14). -/
def Memory.read : Memory → Nat → Word
  | [], _ => unlistedWord
  | (b, v) :: rest, a => if b = a then v else Memory.read rest a

/-- The cells for one word: none if it is what an unlisted address reads as. -/
def cellsFor (a : Nat) (w : Word) : Memory := if w = unlistedWord then [] else [(a, w)]

/-- `MemWrite(addr, 1, v)` (R14, R74), keeping the canonical form. -/
def Memory.write : Memory → Nat → Word → Memory
  | [], a, w => cellsFor a w
  | (b, v) :: rest, a, w =>
    if a < b then cellsFor a w ++ (b, v) :: rest
    else if a = b then cellsFor a w ++ rest
    else (b, v) :: Memory.write rest a w

/-- The canonical form: addresses below 4096 and strictly rising, and no cell equal to what an unlisted address reads as. -/
def Memory.wf : Memory → Bool
  | [] => true
  | (a, v) :: rest => decide (a < memWords) && decide (v ≠ unlistedWord) && rest.all (fun c => decide (a < c.1)) && Memory.wf rest

/-- The memory that holds the words `ws` from address `a` on and zero elsewhere (R381). -/
def imageFrom : Nat → List Nat → Memory
  | _, [] => []
  | a, w :: ws => cellsFor a (BitVec.ofNat 16 w) ++ imageFrom (a + 1) ws

/-! Field writes. `R <- v` of R13; the field's width is the mask of R32. -/

/-- Writes `ac`. -/
def State.setAC (s : State) (v : Word) : State := { s with ac := v }

/-- Writes `ir`. -/
def State.setIR (s : State) (v : Word) : State := { s with ir := v }

/-- Writes `mbr`. -/
def State.setMBR (s : State) (v : Word) : State := { s with mbr := v }

/-- Writes `pc`. -/
def State.setPC (s : State) (v : Addr) : State := { s with pc := v }

/-- Writes `mar`. -/
def State.setMAR (s : State) (v : Addr) : State := { s with mar := v }

/-- Writes `inReg`. -/
def State.setIN (s : State) (v : Word) : State := { s with inReg := v }

/-- Writes `outReg`. -/
def State.setOUT (s : State) (v : Word) : State := { s with outReg := v }

/-- Writes `mem`. -/
def State.setMem (s : State) (v : Memory) : State := { s with mem := v }

/-- Writes `halted`. -/
def State.setHalted (s : State) (v : Bool) : State := { s with halted := v }

/-- Writes `upc`. -/
def State.setUpc (s : State) (v : BitVec 4) : State := { s with upc := v }

/-- Writes `dec`. -/
def State.setDec (s : State) (v : Option Opcode) : State := { s with dec := v }

/-- Writes `cmp`. -/
def State.setCmp (s : State) (v : Bool) : State := { s with cmp := v }

/-- Writes `intr`. -/
def State.setIntr (s : State) (v : Intr) : State := { s with intr := v }

/-- Writes `fault`. -/
def State.setFault (s : State) (v : FaultCode) : State := { s with fault := v }

/-- Writes `origin`. -/
def State.setOrigin (s : State) (v : Addr) : State := { s with origin := v }

/-- Writes `inputs`. -/
def State.setInputs (s : State) (v : List (Option Int)) : State := { s with inputs := v }

/-- Writes `outputs`. -/
def State.setOutputs (s : State) (v : List Word) : State := { s with outputs := v }

/-! The register file (10_state.md R30, R31, R32). -/

/-- The seven registers (R30). -/
inductive Reg where
  | ac | ir | mbr | pc | mar | inReg | outReg
  deriving DecidableEq, Repr

/-- The register a select code names (R31); code 7, and any number that is no 3-bit code, names none. -/
def regOfCode (code : Nat) : Option Reg :=
  match code with
  | 0 => some .ac
  | 1 => some .ir
  | 2 => some .mbr
  | 3 => some .pc
  | 4 => some .mar
  | 5 => some .inReg
  | 6 => some .outReg
  | _ => none

/-- `x[r]` (R13), as a 16-bit value. -/
def State.readReg (s : State) (r : Reg) : Word :=
  match r with
  | .ac => s.ac
  | .ir => s.ir
  | .mbr => s.mbr
  | .pc => zext16 s.pc
  | .mar => zext16 s.mar
  | .inReg => s.inReg
  | .outReg => s.outReg

/-- `x[r] <- v`, masked to the register's width (R32). -/
def State.writeReg (s : State) (r : Reg) (v : Word) : State :=
  match r with
  | .ac => s.setAC v
  | .ir => s.setIR v
  | .mbr => s.setMBR v
  | .pc => s.setPC (low12 v)
  | .mar => s.setMAR (low12 v)
  | .inReg => s.setIN v
  | .outReg => s.setOUT v

/-- The memory word at an address. -/
def State.readMem (s : State) (a : Addr) : Word := s.mem.read a.toNat

/-- Stores a memory word. -/
def State.writeMem (s : State) (a : Addr) (v : Word) : State := s.setMem (s.mem.write a.toNat v)

/-! Faults, and the only ways on from one (60_exceptions.md R340, R341, R347). -/

/-- `raise Fault(code)`: "`halted <- 1; fault <- code`" (R341). The block has no trap mechanism (R340), so this is all of it. -/
def raiseFault (code : FaultCode) (s : State) : State := (s.setHalted true).setFault code

/-- `resetRegisters()` (70_reset_and_hazards.md R380): memory, the last origin, the parameters and the host's two lists stay. -/
def resetRegisters (s : State) : State :=
  { s with
    ac := 0, ir := 0, mbr := 0, mar := 0, inReg := 0, outReg := 0, pc := s.origin, halted := false, upc := 0
    dec := none, cmp := false, intr := .idle, fault := .none }

/-- What a successful `load` leaves (R381): the image in memory, zero elsewhere, then `resetRegisters()`. -/
def loaded (origin : Addr) (program : List Nat) (s : State) : State :=
  resetRegisters ((s.setMem (imageFrom origin.toNat program)).setOrigin origin)

/-- `load({origin, program})` (R381): refused, with the state unchanged, if the program does not fit. -/
def load (origin : Addr) (program : List Nat) (s : State) : Host.Outcome State Fault Refusal :=
  if origin.toNat + program.length > memWords then .refused .programDoesNotFit else .next (loaded origin program s)

end Sys2Proof.Machine
end

