-- ==== Sys2Proof/Machine/MicroOps.lean ====
section
/-! DEFINITION. The micro-operations (41_sequencer.md R181, R182), what each does, and running a list of them (R193 to R195). -/

namespace Sys2Proof.Machine

/-- The closed set of micro-operations, one per row of R182. -/
inductive MicroOp where
  | stepStart | marFromPC | memRd | irFromMBR | pcInc | decode
  | marFromIR | marFromMBR | mbrFromAC | mbrFromPC | mbrFromIR | memWr | acFromMBR | acOne | outFromAC
  | pcFromIR | pcFromMBR | pcFromAC | aluAdd | aluSub | aluLoadImmi | cmp | skipInc | inputReq | haltOp | stepEnd
  deriving DecidableEq, Repr

/-- How a micro-op leaves the instruction: going on, or with the block halted, so that no later micro-op and no step-end
follows (R194, R346). -/
inductive Flow where
  | go (s : State)
  | stop (s : State)
  deriving DecidableEq, Repr

/-- The state a micro-op leaves. -/
def Flow.state : Flow → State
  | .go s => s
  | .stop s => s

/-- Whether JnS is running with `jns_ac_write = false`: its ACone and ALU_ADD then leave AC alone (44_control.md R281). -/
def State.jnsKeepsAC (s : State) : Bool := s.dec == some .jns && !s.cfg.jnsAcWrite

/-- The register transfer of a micro-op (R182). `x` is the operand field it reads: the live `IR[11:0]` in `microStep`
(R197), the instruction's own operand in `exec` (log entry 8). With `jns_ac_write = false` JnS still sets PC to X + 1
(R281; log entry 7). -/
def transfer (x : Addr) (op : MicroOp) (s : State) : Flow :=
  match op with
  | .stepStart => .go s
  | .marFromPC => .go (s.setMAR s.pc)
  | .memRd => .go (s.setMBR (s.readMem s.mar))
  | .irFromMBR => .go (s.setIR s.mbr)
  | .pcInc => .go (s.setPC (s.pc + 1))
  | .decode =>
    match opcodeOf s.ir with
    | some entry => .go (s.setDec (some entry))
    | none => .stop (raiseFault .unsupportedOpcode s)
  | .marFromIR => .go (s.setMAR x)
  | .marFromMBR => .go (s.setMAR (low12 s.mbr))
  | .mbrFromAC => .go (s.setMBR s.ac)
  | .mbrFromPC => .go (s.setMBR (zext16 s.pc))
  | .mbrFromIR => .go (s.setMBR (zext16 x))
  | .memWr => .go (s.writeMem s.mar s.mbr)
  | .acFromMBR => .go (s.setAC s.mbr)
  | .acOne => .go (if s.jnsKeepsAC then s else s.setAC 1)
  | .outFromAC => .go ((s.setOUT s.ac).setOutputs (s.outputs ++ [s.ac]))
  | .pcFromIR => .go (s.setPC x)
  | .pcFromMBR => .go (s.setPC (low12 s.mbr))
  | .pcFromAC => .go (s.setPC (if s.jnsKeepsAC then x + 1 else low12 s.ac))
  | .aluAdd => .go (if s.jnsKeepsAC then s else s.setAC (aluAdd s.ac s.mbr))
  | .aluSub => .go (s.setAC (aluSub s.ac s.mbr))
  | .aluLoadImmi => .go (s.setAC (aluLoadImmi x))
  | .cmp =>
    match evalCond x s.ac with
    | some b => .go (s.setCmp b)
    | none => .stop (raiseFault .unsupportedSkipCond s)
  | .skipInc => .go (if s.cmp then s.setPC (s.pc + 1) else s)
  | .inputReq => .go (s.setIntr .needsValue)
  | .haltOp => .stop (s.setHalted true)
  | .stepEnd => .go s

/-- upc after a micro-op: StepEnd resets it, every other advances it by one, the one that halts included (R195). -/
def nextUpc (op : MicroOp) (upc : BitVec 4) : BitVec 4 :=
  match op with
  | .stepEnd => 0
  | _ => upc + 1

/-- One micro-op as one micro-step: the transfer and the update of upc (R184, R195). -/
def perform (x : Addr) (op : MicroOp) (s : State) : Flow :=
  match transfer x op s with
  | .go t => .go (t.setUpc (nextUpc op s.upc))
  | .stop t => .stop (t.setUpc (nextUpc op s.upc))

/-- Micro-ops one after another, up to the first that halts the block (R193, R346). -/
def runOps (x : Addr) : List MicroOp → State → Flow
  | [], s => .go s
  | op :: ops, s =>
    match perform x op s with
    | .go t => runOps x ops t
    | .stop t => .stop t

/-- The fetch micro-ops, at upc 0 to 4 (R184, R187 to R191). -/
def fetchOps : List MicroOp := [.stepStart, .marFromPC, .memRd, .irFromMBR, .pcInc]

/-- The six fetch-decode micro-ops, "always the start of an instruction cycle" (R184). -/
def fetchDecodeOps : List MicroOp := fetchOps ++ [.decode]

/-- Fetching an instruction: the micro-steps at upc 0 to 4. IR and MBR hold the word, MAR its address, PC the next address. -/
def fetch (s : State) : State := (runOps s.operand fetchOps s).state

/-! The two engine steps of Input (45_io_system.md R311, R312). -/

/-- InputAccept(v): `IN <- v mod 2^16; intr <- NeedsLoad`; upc unchanged (R311). -/
def inputAccept (v : Int) (s : State) : State := (s.setIN (wordOfInt v)).setIntr .needsLoad

/-- InputLoad: `AC <- IN; intr <- Idle`; upc unchanged (R312). -/
def inputLoad (s : State) : State := (s.setAC s.inReg).setIntr .idle

/-! What the instruction meanings share. -/

/-- The Decode micro-step for a word whose table entry is `op`: dec latched, upc at the first execute position (R192). -/
def latch (op : Opcode) (s : State) : State := (s.setDec (some op)).setUpc 6

/-- StepEnd: `upc <- 0` (R194). -/
def stepEnd (s : State) : State := s.setUpc 0

/-- An instruction from its Decode to its step-end (R192 to R194): latch the entry, run its list, and end the cycle unless the
block halted. -/
def runInstr (op : Opcode) (ops : List MicroOp) (x : Addr) (s : State) : Host.Outcome State Fault Refusal :=
  match runOps x ops (latch op s) with
  | .go t => .next (stepEnd t)
  | .stop t => .next t

end Sys2Proof.Machine
end

