-- ==== Sys2Proof/Machine/Arithmetic.lean ====
section
/-! DEFINITION. Add, Subt and AddI (43_arithmetic.md R261 to R263). -/

namespace Sys2Proof.Machine

/-- Add's micro-op list (R261). -/
def addOps : List MicroOp := [.marFromIR, .memRd, .aluAdd]

/-- Add X (R261). -/
def execAdd (x : Addr) (s : State) : Host.Outcome State Fault Refusal := runInstr .add addOps x s

/-- Subt's micro-op list (R262). -/
def subtOps : List MicroOp := [.marFromIR, .memRd, .aluSub]

/-- Subt X (R262). -/
def execSubt (x : Addr) (s : State) : Host.Outcome State Fault Refusal := runInstr .subt subtOps x s

/-- AddI's micro-op list (R263). -/
def addIOps : List MicroOp := [.marFromIR, .memRd, .marFromMBR, .memRd, .aluAdd]

/-- AddI X (R263). -/
def execAddI (x : Addr) (s : State) : Host.Outcome State Fault Refusal := runInstr .addI addIOps x s

end Sys2Proof.Machine
end

