-- ==== Sys2Proof/Machine/Control.lean ====
section
/-! DEFINITION. JnS, Adr, SkipCond, Jump and JumpI (44_control.md R281 to R288). -/

namespace Sys2Proof.Machine

/-- JnS's micro-op list (R281). -/
def jnsOps : List MicroOp := [.mbrFromPC, .marFromIR, .memWr, .mbrFromIR, .acOne, .aluAdd, .pcFromAC]

/-- JnS X (R281). -/
def execJnS (x : Addr) (s : State) : Host.Outcome State Fault Refusal := runInstr .jns jnsOps x s

/-- Adr X (R282): "If executed, it is a JnS". -/
def execAdr (x : Addr) (s : State) : Host.Outcome State Fault Refusal := runInstr .jns jnsOps x s

/-- SkipCond's micro-op list (R284 to R286). -/
def skipCondOps : List MicroOp := [.cmp, .skipInc]

/-- SkipCond (R284): the condition selects the comparison, `IR[9:0]` takes no part. -/
def execSkipCond (c : Cond) (ignored : BitVec 10) (s : State) : Host.Outcome State Fault Refusal :=
  runInstr .skipCond skipCondOps (skipCondOperand c ignored) s

/-- Jump's micro-op list (R287). -/
def jumpOps : List MicroOp := [.pcFromIR]

/-- Jump X (R287). -/
def execJump (x : Addr) (s : State) : Host.Outcome State Fault Refusal := runInstr .jump jumpOps x s

/-- JumpI's micro-op list (R288). -/
def jumpIOps : List MicroOp := [.marFromIR, .memRd, .pcFromMBR]

/-- JumpI X (R288). -/
def execJumpI (x : Addr) (s : State) : Host.Outcome State Fault Refusal := runInstr .jumpI jumpIOps x s

end Sys2Proof.Machine
end

