-- ==== Sys2Proof/Machine/DataTransfer.lean ====
section
/-! DEFINITION. Load, Store, LoadImmi, Clear, LoadI and StoreI (42_data_transfer.md R231 to R236). -/

namespace Sys2Proof.Machine

/-- Load's micro-op list (R231). -/
def loadOps : List MicroOp := [.marFromIR, .memRd, .acFromMBR]

/-- Load X (R231). -/
def execLoad (x : Addr) (s : State) : Host.Outcome State Fault Refusal := runInstr .load loadOps x s

/-- Store's micro-op list (R232). -/
def storeOps : List MicroOp := [.marFromIR, .mbrFromAC, .memWr]

/-- Store X (R232). -/
def execStore (x : Addr) (s : State) : Host.Outcome State Fault Refusal := runInstr .store storeOps x s

/-- LoadImmi's micro-op list (R233). -/
def loadImmiOps : List MicroOp := [.aluLoadImmi]

/-- LoadImmi X (R233). -/
def execLoadImmi (x : Addr) (s : State) : Host.Outcome State Fault Refusal := runInstr .loadImmi loadImmiOps x s

/-- Clear (R234): "rule R233 with X = 0". -/
def execClear (s : State) : Host.Outcome State Fault Refusal := runInstr .loadImmi loadImmiOps 0 s

/-- LoadI's micro-op list (R235). -/
def loadIOps : List MicroOp := [.marFromIR, .memRd, .marFromMBR, .memRd, .acFromMBR]

/-- LoadI X (R235). -/
def execLoadI (x : Addr) (s : State) : Host.Outcome State Fault Refusal := runInstr .loadI loadIOps x s

/-- StoreI's micro-op list (R236). -/
def storeIOps : List MicroOp := [.marFromIR, .memRd, .marFromMBR, .mbrFromAC, .memWr]

/-- StoreI X (R236). -/
def execStoreI (x : Addr) (s : State) : Host.Outcome State Fault Refusal := runInstr .storeI storeIOps x s

end Sys2Proof.Machine
end

