-- ==== Sys2Proof/Machine/InputOutput.lean ====
section
/-! DEFINITION. Input, Output, Halt and the undefined opcode 0xF (45_io_system.md R310 to R317). -/

namespace Sys2Proof.Machine

/-- Input's micro-op list (R310). -/
def inputOps : List MicroOp := [.inputReq]

/-- One input attempt and, if the source answers, what follows it to the step-end (R311, R312, R194). With no usable
answer nothing changes but that the attempt is spent: the block waits in the same state (R313). -/
def attemptInput (s : State) : State :=
  match s.inputs with
  | [] => s
  | none :: rest => s.setInputs rest
  | some v :: rest => stepEnd (inputLoad (inputAccept v (s.setInputs rest)))

/-- Input (R310): the request, then one attempt. A later `step` makes the next attempt. -/
def execInput (x : Addr) (s : State) : Host.Outcome State Fault Refusal :=
  match runOps x inputOps (latch .input s) with
  | .go t => .next (attemptInput t)
  | .stop t => .next t

/-- Output's micro-op list (R315). -/
def outputOps : List MicroOp := [.outFromAC]

/-- Output (R315). -/
def execOutput (x : Addr) (s : State) : Host.Outcome State Fault Refusal := runInstr .output outputOps x s

/-- Halt's micro-op list (R316). -/
def haltOps : List MicroOp := [.haltOp]

/-- Halt (R316): no step-end follows, so upc stays at 7. -/
def execHalt (x : Addr) (s : State) : Host.Outcome State Fault Refusal := runInstr .halt haltOps x s

/-- Opcode 0xF (R317): its Decode micro-step raises fault 1, with dec unchanged and upc at 6 (R192). -/
def execUndefinedOpcode0xF (_x : Addr) (s : State) : Host.Outcome State Fault Refusal :=
  .next ((raiseFault .unsupportedOpcode s).setUpc 6)

end Sys2Proof.Machine
end

