-- ==== Sys2Proof/Machine/Dispatch.lean ====
section
/-! DEFINITION. One arm per instruction: an instruction's whole execution, from its Decode micro-step on, in the state that
`fetch` leaves (log entry 9). -/

namespace Sys2Proof.Machine

def exec (i : Instr) (s : State) : Host.Outcome State Fault Refusal :=
  match i with
  -- 44_control.md
  | .jns x => Sys2Proof.Machine.execJnS x s
  -- 42_data_transfer.md
  | .load x => Sys2Proof.Machine.execLoad x s
  | .store x => Sys2Proof.Machine.execStore x s
  -- 43_arithmetic.md
  | .add x => Sys2Proof.Machine.execAdd x s
  | .subt x => Sys2Proof.Machine.execSubt x s
  -- 45_io_system.md
  | .input x => Sys2Proof.Machine.execInput x s
  | .output x => Sys2Proof.Machine.execOutput x s
  | .halt x => Sys2Proof.Machine.execHalt x s
  -- 44_control.md
  | .skipCond c ignored => Sys2Proof.Machine.execSkipCond c ignored s
  | .jump x => Sys2Proof.Machine.execJump x s
  -- 42_data_transfer.md, 43_arithmetic.md, 44_control.md
  | .loadImmi x => Sys2Proof.Machine.execLoadImmi x s
  | .addI x => Sys2Proof.Machine.execAddI x s
  | .jumpI x => Sys2Proof.Machine.execJumpI x s
  | .loadI x => Sys2Proof.Machine.execLoadI x s
  | .storeI x => Sys2Proof.Machine.execStoreI x s
  -- the assembler's second spellings, and opcode 0xF
  | .adr x => Sys2Proof.Machine.execAdr x s
  | .clear => Sys2Proof.Machine.execClear s
  | .undefinedOpcode0xF x => Sys2Proof.Machine.execUndefinedOpcode0xF x s

end Sys2Proof.Machine
end

