-- ==== Sys2Proof/Machine/Trace.lean ====
section
/-! DEFINITION. The trace event each progressing micro-step and each host write emits (41_sequencer.md R216), and rebuilding the
state before a step from its event (95_test_vectors.md S6). -/

namespace Sys2Proof.Machine

/-- The encoding of the fault code (10_state.md R40). -/
def FaultCode.code : FaultCode → BitVec 2
  | .none => 0
  | .unsupportedOpcode => 1
  | .unsupportedSkipCond => 2

/-- The encoding of the input-interrupt state (10_state.md R39). -/
def Intr.code : Intr → BitVec 2
  | .idle => 0
  | .needsValue => 1
  | .needsLoad => 2

/-- The error text a halt event carries: none for HaltOp (R216). -/
def FaultCode.text : FaultCode → Option String
  | .none => .none
  | .unsupportedOpcode => some "Unsupported opcode"
  | .unsupportedSkipCond => some "unsupported SkipCond pattern"

/-- The trace kinds of R216. -/
inductive EventKind where
  | stepStart | registerTransfer | memoryRead | memoryWrite | regset | memset | arithmeticOp | comparisonOp | pcIncrement
  | decode | inputRequest | input | output | halt | stepEnd
  deriving DecidableEq, Repr

/-- "The register or memory address written" (R216). -/
inductive Dest where
  | reg (r : Reg)
  | mem (a : Addr)
  deriving DecidableEq, Repr

/-- `dest`, `old` and `new` of R216. -/
structure Written where
  dest : Dest
  old : Word
  new : Word
  deriving DecidableEq, Repr

/-- The kind-specific payload of R216. The old dec and the old cmp are there too (log entry 15). -/
inductive Payload where
  | none
  /-- step-start carries PC. -/
  | startsAt (pc : Addr)
  /-- decode carries op. -/
  | decoded (op : Opcode) (oldDec : Option Opcode)
  /-- comparison op carries the selected condition and the result. -/
  | compared (c : Cond) (result : Bool) (oldCmp : Bool)
  /-- PC increment from SkipInc carries `taken`. -/
  | skip (taken : Bool)
  /-- halt carries `fault`; its text is `FaultCode.text`. -/
  | halted (code : FaultCode)
  deriving DecidableEq, Repr

/-- A trace event (R216). -/
structure Event where
  kind : EventKind
  upcBefore : BitVec 4
  intrBefore : Intr
  written : Option Written
  payload : Payload
  deriving DecidableEq, Repr

/-- The value at a destination. -/
def State.readDest (s : State) (d : Dest) : Word :=
  match d with
  | .reg r => s.readReg r
  | .mem a => s.readMem a

/-- Writes a destination. -/
def State.writeDest (s : State) (d : Dest) (v : Word) : State :=
  match d with
  | .reg r => s.writeReg r v
  | .mem a => s.writeMem a v

/-- What the transition from `s` to `t` wrote at a destination. -/
def writtenAt (d : Dest) (s t : State) : Written := { dest := d, old := s.readDest d, new := t.readDest d }

/-- The register or memory word a micro-op writes in a state, if it writes one (R182). -/
def destOf (op : MicroOp) (s : State) : Option Dest :=
  match op with
  | .marFromPC | .marFromIR | .marFromMBR => some (.reg .mar)
  | .memRd | .mbrFromAC | .mbrFromPC | .mbrFromIR => some (.reg .mbr)
  | .irFromMBR => some (.reg .ir)
  | .pcInc | .pcFromIR | .pcFromMBR | .pcFromAC => some (.reg .pc)
  | .skipInc => if s.cmp then some (.reg .pc) else none
  | .acFromMBR | .aluSub | .aluLoadImmi => some (.reg .ac)
  | .acOne | .aluAdd => if s.jnsKeepsAC then none else some (.reg .ac)
  | .outFromAC => some (.reg .outReg)
  | .memWr => some (.mem s.mar)
  | .stepStart | .decode | .cmp | .inputReq | .haltOp | .stepEnd => none

/-- The trace kind of a micro-op that raises no fault (R182). -/
def kindOf (op : MicroOp) : EventKind :=
  match op with
  | .stepStart => .stepStart
  | .marFromPC | .irFromMBR | .marFromIR | .marFromMBR | .mbrFromAC | .mbrFromPC | .mbrFromIR | .acFromMBR | .acOne
  | .pcFromIR | .pcFromMBR | .pcFromAC => .registerTransfer
  | .memRd => .memoryRead
  | .memWr => .memoryWrite
  | .pcInc | .skipInc => .pcIncrement
  | .decode => .decode
  | .outFromAC => .output
  | .aluAdd | .aluSub | .aluLoadImmi => .arithmeticOp
  | .cmp => .comparisonOp
  | .inputReq => .inputRequest
  | .haltOp => .halt
  | .stepEnd => .stepEnd

/-- The kind and the payload of a micro-op's event; a Decode or a CMP that raises a fault is a halt (R182, R341). -/
def kindAndPayload (x : Addr) (op : MicroOp) (s : State) : EventKind × Payload :=
  match op with
  | .stepStart => (kindOf op, .startsAt s.pc)
  | .decode =>
    match opcodeOf s.ir with
    | some entry => (kindOf op, .decoded entry s.dec)
    | none => (.halt, .halted .unsupportedOpcode)
  | .cmp =>
    match selectedCond x with
    | some c => (kindOf op, .compared c (condHolds c s.ac) s.cmp)
    | none => (.halt, .halted .unsupportedSkipCond)
  | .skipInc => (kindOf op, .skip s.cmp)
  | .haltOp => (kindOf op, .halted .none)
  | _ => (kindOf op, .none)

/-- The event of a micro-op performed in state `s` (R216). -/
def eventOf (x : Addr) (op : MicroOp) (s : State) : Event :=
  { kind := (kindAndPayload x op s).1
    upcBefore := s.upc
    intrBefore := s.intr
    written := (destOf op s).map fun d => writtenAt d s (transfer x op s).state
    payload := (kindAndPayload x op s).2 }

/-- The event of a transition that only writes one destination: an engine step or a host write. -/
def writeEvent (kind : EventKind) (d : Dest) (s t : State) : Event :=
  { kind := kind, upcBefore := s.upc, intrBefore := s.intr, written := some (writtenAt d s t), payload := .none }

/-- Puts the old value of what an event wrote back. -/
def restoreWritten (w : Option Written) (s : State) : State :=
  match w with
  | some w => s.writeDest w.dest w.old
  | none => s

/-- Puts back what an event's payload says of dec, cmp, halted and fault; a step runs only in a block that is not halted. -/
def restoreControl (p : Payload) (s : State) : State :=
  match p with
  | .decoded _ oldDec => s.setDec oldDec
  | .compared _ _ oldCmp => s.setCmp oldCmp
  | .halted _ => (s.setHalted false).setFault .none
  | .none | .startsAt _ | .skip _ => s

/-- The output stream before an event. -/
def restoreOutputs (kind : EventKind) (s : State) : State :=
  match kind with
  | .output => s.setOutputs s.outputs.dropLast
  | _ => s

/-- The state before a progressing micro-step, from its event and the state after it (S6). -/
def rewind (e : Event) (t : State) : State :=
  restoreOutputs e.kind (restoreControl e.payload (restoreWritten e.written ((t.setUpc e.upcBefore).setIntr e.intrBefore)))

/-- Rewinds a run, whose events stand oldest first. -/
def rewindAll : List Event → State → State
  | [], t => t
  | e :: es, t => rewind e (rewindAll es t)

end Sys2Proof.Machine
end

