-- ==== Sys2Proof/Machine/Sequencer.lean ====
section
/-! DEFINITION. The sequencer one micro-step at a time (41_sequencer.md R184 to R197), and the instruction-level `step()` made
of micro-steps (R217). -/

namespace Sys2Proof.Machine

/-- The decoder's table (R196): the micro-op list of each opcode. It is fixed; nothing writes it. -/
def microOps : Opcode → List MicroOp
  | .jns => jnsOps
  | .load => loadOps
  | .store => storeOps
  | .add => addOps
  | .subt => subtOps
  | .input => inputOps
  | .output => outputOps
  | .halt => haltOps
  | .skipCond => skipCondOps
  | .jump => jumpOps
  | .loadImmi => loadImmiOps
  | .addI => addIOps
  | .jumpI => jumpIOps
  | .loadI => loadIOps
  | .storeI => storeIOps

/-- The micro-op at the current position (R36, R184): `fetchOp[upc]` below 6, then the decoded instruction's list, then
StepEnd. None outside the invariant of R186. -/
def microOpAt (s : State) : Option MicroOp :=
  if s.upc.toNat < 6 then fetchDecodeOps[s.upc.toNat]?
  else s.dec.bind fun op => (microOps op ++ [.stepEnd])[s.upc.toNat - 6]?

/-- What a call of `microStep` returns (R16, R180). -/
inductive MicroResult where
  /-- `(s', ev)`. -/
  | moved (s : State) (e : Event)
  /-- `none`: halted, or blocked awaiting input; nothing changed. -/
  | noProgress
  /-- R184 says nothing of this state (R186, U19). -/
  | refused (r : Refusal)
  deriving DecidableEq, Repr

/-- `microStep(s, d)` (R184), its checks in R345's order. `d` is the input draw; `s.inputs` plays no part here. -/
def microStep (s : State) (d : Option Int) : MicroResult :=
  if s.halted then .noProgress
  else
    match s.intr with
    | .needsValue =>
      match d with
      | none => .noProgress
      | some v => .moved (inputAccept v s) (writeEvent .input (.reg .inReg) s (inputAccept v s))
    | .needsLoad => .moved (inputLoad s) (writeEvent .registerTransfer (.reg .ac) s (inputLoad s))
    | .idle =>
      match microOpAt s with
      | some op => .moved (perform s.operand op s).state (eventOf s.operand op s)
      | none => .refused .outsideInvariant

/-- Micro-steps with the given draws, one draw a call, and their events oldest first. A refusal ends the run. -/
def microRun : List (Option Int) → State → State × List Event
  | [], s => (s, [])
  | d :: ds, s =>
    match microStep s d with
    | .moved t e => ((microRun ds t).1, e :: (microRun ds t).2)
    | .noProgress => microRun ds s
    | .refused _ => (s, [])

/-! Micro-steps whose draws come from the host's answers. -/

/-- Whether the next `microStep` asks the input source (R311, R345). -/
def State.asksInput (s : State) : Bool := !s.halted && s.intr == .needsValue

/-- The host's answer to the next attempt: the head of its list, or "not ready". -/
def State.nextDraw (s : State) : Option Int := s.inputs.head?.join

/-- The state once an attempt has used up its answer. -/
def State.spendDraw (s : State) : State := if s.asksInput then s.setInputs s.inputs.tail else s

/-- What one such micro-step does. -/
inductive Tick where
  | moved (s : State) (e : Event)
  | blocked (s : State)
  | refused (r : Refusal)
  deriving DecidableEq, Repr

/-- `microStep(s, next draw)`. A blocked attempt changes nothing of the block (R313). -/
def tick (s : State) : Tick :=
  match microStep s.spendDraw s.nextDraw with
  | .moved t e => .moved t e
  | .noProgress => .blocked s.spendDraw
  | .refused r => .refused r

/-- What `step()` returns (R217): how many micro-steps progressed, whether an instruction completed, and the state. -/
inductive CycleResult where
  | stopped (steps : Nat) (completed : Bool) (s : State)
  | refused (r : Refusal)
  deriving DecidableEq, Repr

/-- One more micro-step before a result. -/
def CycleResult.succ : CycleResult → CycleResult
  | .stopped n c s => .stopped (n + 1) c s
  | .refused r => .refused r

/-- The loop of `step()` (R217, D28): micro-steps until a step-end or a halt (`true`) or no progress (`false`). The first
argument bounds the loop. -/
def cycleLoop : Nat → State → CycleResult
  | 0, s => .stopped 0 false s
  | fuel + 1, s =>
    match tick s with
    | .moved t e => if e.kind == .stepEnd || e.kind == .halt then .stopped 1 true t else (cycleLoop fuel t).succ
    | .blocked t => .stopped 0 false t
    | .refused r => .refused r

/-- More micro-steps than any call of `step()` makes: the longest instruction takes 14 (70_reset_and_hazards.md R400), and an
input left pending takes two before it. The bound is generous so that a simple count of what is left stays under it. -/
def cycleFuel : Nat := 48

/-- `step()` (R217), by micro-steps alone, from any state. -/
def microCycle (s : State) : CycleResult := cycleLoop cycleFuel s

/-- Finishing an instruction that is under way, and standing still when the block is halted (R185, R217). -/
def resume (s : State) : Host.Outcome State Fault Refusal :=
  match microCycle s with
  | .stopped _ _ t => .next t
  | .refused r => .refused r

/-- An instruction boundary: the next micro-step is a StepStart (R187). -/
def State.atBoundary (s : State) : Bool := !s.halted && s.upc == 0 && s.intr == .idle

end Sys2Proof.Machine
end

