-- ==== Sys2Proof/Machine/Step.lean ====
section
/-! DEFINITION. One step of the machine: one call of the source's `step()` (41_sequencer.md R217). -/

namespace Sys2Proof.Machine

/-- At an instruction boundary: fetch the word at PC, decode it, run it. Anywhere else: finish what is under way (log entry 3).
Halted, or waiting for an answer that is not there, it answers the same state (log entry 10). -/
def step (s : State) : Host.Outcome State Fault Refusal :=
  if s.atBoundary then exec (decodeWord (fetch s).ir) (fetch s) else resume s

/-- The state whose next step fetches and runs the word `w` of `nbits` bits: the word stands at PC, and the block is at an
instruction boundary. It stands for the load that puts a program into the block (log entry 13). -/
def State.withFetchWord (s : State) (nbits w : Nat) : State :=
  { s with mem := Memory.write s.mem s.pc.toNat (tableWord nbits w), halted := false, upc := 0, intr := .idle }

end Sys2Proof.Machine
end

