-- ==== Sys2Proof/Machine/Assembler.lean ====
section
/-! DEFINITION. The assembler (30_encoding.md section 3, R120 to R131): the toolchain that produces the words the block executes.
Text is a list of characters. Where R120 to R131 leave a choice, log entries 16 to 20 and 31 to 34 say which was made. -/

namespace Sys2Proof.Machine

/-! Errors (R130). -/

/-- The three error types (R130). -/
inductive AsmErrorKind where
  | syntaxError | labelError | valueError
  deriving DecidableEq, Repr

/-- Why a line is in error. -/
inductive AsmReason where
  /-- The line does not match the line pattern (R120), or its label is malformed (R121). -/
  | lineMalformed
  /-- A label bound before, on the given line (R121). -/
  | duplicateLabel (firstLine : Nat)
  /-- A second `org` (R128). -/
  | orgRepeated
  /-- An `org` after a word-producing line (R128). -/
  | orgLate
  /-- An `org` operand that is not three hex digits (R128). -/
  | orgOperand
  /-- An operator the tables do not hold (R122). -/
  | unknownOperator
  /-- An operand where the table wants none (R123). -/
  | operandUnexpected
  /-- No operand where the table wants one (R123). -/
  | operandMissing
  /-- A digit-led operand that is no hexadecimal literal (R123). -/
  | literalMalformed
  /-- A literal address above 0xFFF (R123, 90_conflicts.md C5). -/
  | addressOutOfBounds
  /-- An operand that names no label (R123). -/
  | undefinedLabel
  /-- A data literal outside its character class (R126). -/
  | dataMalformed
  /-- A data literal out of range (R126). -/
  | dataOutOfRange
  /-- A word at address 4096 or above (R128). -/
  | memoryExceeded
  deriving DecidableEq, Repr

/-- The error type of a reason (R120 to R128). -/
def AsmReason.kind : AsmReason → AsmErrorKind
  | .lineMalformed | .orgRepeated | .orgLate | .orgOperand | .unknownOperator | .operandUnexpected | .operandMissing
  | .literalMalformed | .addressOutOfBounds | .undefinedLabel => .syntaxError
  | .duplicateLabel _ => .labelError
  | .dataMalformed | .dataOutOfRange | .memoryExceeded => .valueError

/-- The message of a reason; the spec gives the text of one only (90_conflicts.md C5; log entry 19). -/
def AsmReason.message : AsmReason → String
  | .lineMalformed => "line not understood"
  | .duplicateLabel n => "label already defined on line " ++ toString n
  | .orgRepeated => "origin already given"
  | .orgLate => "origin after an instruction"
  | .orgOperand => "origin is not three hex digits"
  | .unknownOperator => "unknown operator"
  | .operandUnexpected => "operand not allowed"
  | .operandMissing => "operand required"
  | .literalMalformed => "bad address literal"
  | .addressOutOfBounds => "address out of bounds"
  | .undefinedLabel => "undefined label"
  | .dataMalformed => "bad data literal"
  | .dataOutOfRange => "data literal out of range"
  | .memoryExceeded => "program exceeds memory"

/-- An error: its reason and the 1-based source line (R130). -/
structure AsmError where
  reason : AsmReason
  line : Nat
  deriving DecidableEq, Repr

/-! Characters and tokens (R120). -/

/-- White space, the class `\s` of R120's regex: the ASCII characters 0x09 to 0x0D and the space, and the Unicode ones that
`\s` has in the language of the source (PRESUMED, log entry 33). -/
def isBlank (c : Char) : Bool :=
  let n := c.toNat
  (0x09 ≤ n && n ≤ 0x0D) || n == 0x20 || n == 0xA0 || n == 0x1680 || (0x2000 ≤ n && n ≤ 0x200A) || n == 0x2028 || n == 0x2029 ||
    n == 0x202F || n == 0x205F || n == 0x3000 || n == 0xFEFF

/-- A lower-case copy: mnemonics and directives are matched "case-insensitive" (R122). -/
def lower (t : List Char) : List Char := t.map Char.toLower

/-- The lines of a text. -/
def linesOf : List Char → List (List Char)
  | [] => [[]]
  | c :: cs =>
    if c == '\n' then [] :: linesOf cs
    else
      match linesOf cs with
      | [] => [[c]]
      | l :: ls => (c :: l) :: ls

/-- A line without its comment, which "starts at `/` and runs to the end of the line" (R120). -/
def dropComment (line : List Char) : List Char := line.takeWhile (· != '/')

/-- The whitespace-separated tokens of a text; `cur` is the token being read, last character first. -/
def tokensFrom (cur : List Char) : List Char → List (List Char)
  | [] => if cur.isEmpty then [] else [cur.reverse]
  | c :: cs =>
    if isBlank c then (if cur.isEmpty then tokensFrom [] cs else cur.reverse :: tokensFrom [] cs)
    else tokensFrom (c :: cur) cs

/-- The tokens of a text. -/
def tokens (t : List Char) : List (List Char) := tokensFrom [] t

/-- "A label must not start with a digit and must not contain whitespace" (R121). -/
def labelOk (l : List Char) : Bool :=
  match l with
  | [] => false
  | c :: cs => !c.isDigit && !(c :: cs).any isBlank

/-- What a line is (R120). -/
inductive LineShape where
  | blank
  | malformed
  | command (label : Option (List Char)) (operator : List Char) (operand : Option (List Char))
  deriving DecidableEq, Repr

/-- The operator and the operand after the label, if that is what stands there. -/
def commandShape (label : Option (List Char)) (rest : List Char) : LineShape :=
  if rest.any (· == ',') then .malformed
  else
    match tokens rest with
    | [op] => .command label op none
    | [op, arg] => .command label op (some arg)
    | _ => .malformed

/-- One line against `(label,)? operator (operand)? (/comment)?` (R120). -/
def lineShape (line : List Char) : LineShape :=
  let body := (dropComment line).dropWhile isBlank
  if body.isEmpty then .blank
  else if body.any (· == ',') then
    let label := body.takeWhile (· != ',')
    if labelOk label then commandShape (some label) (body.drop (label.length + 1)) else .malformed
  else commandShape none body

/-! Literals (R123, R126, R128). -/

/-- The value of a digit in a radix up to 16. -/
def digitValue (radix : Nat) (c : Char) : Option Nat :=
  let v :=
    if c.isDigit then some (c.toNat - '0'.toNat)
    else if 'a' ≤ c.toLower ∧ c.toLower ≤ 'f' then some (c.toLower.toNat - 'a'.toNat + 10)
    else none
  v.filter (· < radix)

/-- The value of a digit string read on from `acc`. -/
def numberFrom (radix acc : Nat) : List Char → Option Nat
  | [] => some acc
  | c :: cs =>
    match digitValue radix c with
    | some d => numberFrom radix (acc * radix + d) cs
    | none => none

/-- The value of a non-empty digit string, or none outside the radix's character class (R126). -/
def numberOf (radix : Nat) (t : List Char) : Option Nat := if t.isEmpty then none else numberFrom radix 0 t

/-- A decimal literal, `-?\d+` (R126). -/
def decimalOf (t : List Char) : Option Int :=
  match t with
  | '-' :: ds => (numberOf 10 ds).map fun n => -(n : Int)
  | ds => (numberOf 10 ds).map fun n => (n : Int)

/-! The tables (R102, R122, R124). -/

/-- A data directive (R126). -/
inductive DataDirective where
  | dec | oct | hex
  deriving DecidableEq, Repr

/-- What an operator means. -/
inductive Operator where
  /-- An instruction with the operand X. -/
  | withOperand (make : Opcode)
  /-- An instruction that takes none: "operand 0 when the instruction takes none" (R125). -/
  | withoutOperand (make : Opcode)
  | adr
  | clear
  | data (d : DataDirective)
  | org
  | finish
  deriving DecidableEq, Repr

/-- The operators by lower-case name (R122, R124). -/
def operatorTable : List (String × Operator) :=
  [("jns", .withOperand .jns), ("load", .withOperand .load), ("store", .withOperand .store), ("add", .withOperand .add),
   ("subt", .withOperand .subt), ("input", .withoutOperand .input), ("output", .withoutOperand .output),
   ("halt", .withoutOperand .halt), ("skipcond", .withOperand .skipCond), ("jump", .withOperand .jump)] ++
  [("loadimmi", .withOperand .loadImmi), ("addi", .withOperand .addI), ("jumpi", .withOperand .jumpI),
   ("loadi", .withOperand .loadI), ("storei", .withOperand .storeI), ("adr", .adr), ("clear", .clear), ("dec", .data .dec),
   ("oct", .data .oct), ("hex", .data .hex), ("org", .org), ("end", .finish)]

/-- Whether an operator makes its line an instruction line: a mnemonic of R102 or an alias of R124. A data directive, which R128 names
apart ("counting instruction and data lines"), and an operator that no table holds do not (log entry 32). -/
def Operator.isInstruction : Operator → Bool
  | .withOperand _ | .withoutOperand _ | .adr | .clear => true
  | .data _ | .org | .finish => false

/-- The operator a name stands for, in any case (R122). -/
def operatorOf (name : List Char) : Option Operator :=
  (operatorTable.find? fun row => row.1.toList == lower name).map (·.2)

/-! The structural pass: lines, labels, origin and addresses (R120, R121, R127 to R129). -/

/-- A line to encode: its source line, its place in the word sequence, its operator and operand. -/
structure AsmLine where
  line : Nat
  index : Nat
  operator : List Char
  operand : Option (List Char)
  deriving DecidableEq, Repr

/-- A label, the place it is bound to, and the line that defines it. A label on an `org` or `end` line has no place, since its line
produces no word (R121, log entry 18). -/
structure AsmLabel where
  name : List Char
  index : Option Nat
  line : Nat
  deriving DecidableEq, Repr

/-- What the structural pass has found so far, each list in source order. -/
structure AsmPass where
  origin : Addr
  orgSeen : Bool
  instrSeen : Bool
  count : Nat
  labels : List AsmLabel
  lines : List AsmLine
  sourceLines : List Nat
  errors : List AsmError
  deriving DecidableEq, Repr

/-- Before the first line: origin 0 (R128). -/
def AsmPass.start : AsmPass :=
  { origin := 0, orgSeen := false, instrSeen := false, count := 0, labels := [], lines := [], sourceLines := [], errors := [] }

/-- Adds an error. -/
def AsmPass.err (p : AsmPass) (line : Nat) (r : AsmReason) : AsmPass := { p with errors := p.errors ++ [⟨r, line⟩] }

/-- Takes a place in the word sequence, with its source map entry (R128, R129); a line in error takes one too. -/
def AsmPass.place (p : AsmPass) (line : Nat) : AsmPass :=
  { p with count := p.count + 1, sourceLines := p.sourceLines ++ [line] }

/-- Defines a line's label, at the place its word takes if it makes one. A label defined before keeps its first definition, and "a
duplicate yields exactly one Label error", on whatever line it stands (R121). -/
def AsmPass.bind (p : AsmPass) (line : Nat) (index : Option Nat) (label : Option (List Char)) : AsmPass :=
  match label with
  | none => p
  | some name =>
    match p.labels.find? (·.name == name) with
    | some first => p.err line (.duplicateLabel first.line)
    | none => { p with labels := p.labels ++ [⟨name, index, line⟩] }

/-- Keeps a line to encode, and notes whether it is an instruction line. -/
def AsmPass.keep (p : AsmPass) (l : AsmLine) : AsmPass :=
  { p with lines := p.lines ++ [l], instrSeen := p.instrSeen || (operatorOf l.operator).any Operator.isInstruction }

/-- An `org` line: at most one, "and only before any instruction line" (R128; log entry 32 says which lines are instruction lines). DESIGN CHOICE
(log entry 34): the line gives one error at most, the first of repeated, late and malformed operand; one in error sets no origin and
still counts as the one `org`. -/
def AsmPass.org (p : AsmPass) (line : Nat) (operand : Option (List Char)) : AsmPass :=
  if p.orgSeen then p.err line .orgRepeated
  else if p.instrSeen then { p.err line .orgLate with orgSeen := true }
  else
    match operand.filter (·.length == 3) |>.bind (numberOf 16) with
    | some v => { p with origin := BitVec.ofNat 12 v, orgSeen := true }
    | none => { p.err line .orgOperand with orgSeen := true }

/-- The structural pass over the lines from line number `n` on. `end` stops it (R127). -/
def structuralPass (n : Nat) : List (List Char) → AsmPass → AsmPass
  | [], p => p
  | l :: ls, p =>
    match lineShape l with
    | .blank => structuralPass (n + 1) ls p
    | .malformed => structuralPass (n + 1) ls ((p.place n).err n .lineMalformed)
    | .command label op arg =>
      match operatorOf op with
      | some .finish => p.bind n none label
      | some .org => structuralPass (n + 1) ls ((p.bind n none label).org n arg)
      | _ =>
        structuralPass (n + 1) ls
          (((p.bind n p.count label).keep { line := n, index := p.count, operator := op, operand := arg }).place n)

/-! The encoding pass (R123 to R126, R130). -/

/-- The symbol table: label to address (R129). -/
def AsmPass.symbols (p : AsmPass) : List (List Char × Addr) :=
  p.labels.filterMap fun l => l.index.map fun k => (l.name, p.origin + BitVec.ofNat 12 k)

/-- An instruction's operand: a digit-led token is a hexadecimal literal up to 0xFFF, any other a label (R123). -/
def operandValue (symbols : List (List Char × Addr)) (t : List Char) : Except AsmReason Addr :=
  match t with
  | [] => .error .operandMissing
  | c :: cs =>
    if c.isDigit then
      match numberOf 16 (c :: cs) with
      | none => .error .literalMalformed
      | some v => if v < memWords then .ok (BitVec.ofNat 12 v) else .error .addressOutOfBounds
    else
      match symbols.find? (·.1 == c :: cs) with
      | some row => .ok row.2
      | none => .error .undefinedLabel

/-- The value of a data literal, in its directive's radix (R126). -/
def DataDirective.value (d : DataDirective) (t : List Char) : Option Int :=
  match d with
  | .dec => decimalOf t
  | .oct => (numberOf 8 t).map fun n => (n : Int)
  | .hex => (numberOf 16 t).map fun n => (n : Int)

/-- The word of a data directive: [-32768, 65535], a negative value in two's complement (R126). -/
def dataWord (d : DataDirective) (t : List Char) : Except AsmReason Word :=
  match d.value t with
  | none => .error .dataMalformed
  | some v => if -32768 ≤ v ∧ v ≤ 65535 then .ok (BitVec.ofInt 16 v) else .error .dataOutOfRange

/-- A line's word (R123 to R126), or the first of its errors: operator, presence of the operand, value (log entry 34). -/
def lineWord (symbols : List (List Char × Addr)) (l : AsmLine) : Except AsmReason Word :=
  match operatorOf l.operator, l.operand with
  | some (.withOperand op), some t => (operandValue symbols t).map fun x => encode (instrOf op x)
  | some .adr, some t => (operandValue symbols t).map fun x => encode (.adr x)
  | some (.data d), some t => dataWord d t
  | some (.withoutOperand op), none => .ok (encode (instrOf op 0))
  | some .clear, none => .ok (encode .clear)
  | some (.withOperand _), none | some .adr, none | some (.data _), none => .error .operandMissing
  | some (.withoutOperand _), some _ | some .clear, some _ => .error .operandUnexpected
  | some .org, _ | some .finish, _ | none, _ => .error .unknownOperator

/-- A line's error, if its word cannot be made. -/
def lineErrors (symbols : List (List Char × Addr)) (l : AsmLine) : List AsmError :=
  match lineWord symbols l with
  | .ok _ => []
  | .error r => [⟨r, l.line⟩]

/-- The errors of the places past the end of memory (R128), given the source lines of the places from place `k` on. A malformed line's
place counts like any other. -/
def placeErrors (origin : Addr) (k : Nat) : List Nat → List AsmError
  | [] => []
  | line :: rest =>
    if origin.toNat + k < memWords then placeErrors origin (k + 1) rest
    else ⟨.memoryExceeded, line⟩ :: placeErrors origin (k + 1) rest

/-- "The complete ordered list of errors" (R130): the structural pass's, the encoding pass's, and those of the places past the end of
memory, each in source order (log entry 17). -/
def AsmPass.allErrors (p : AsmPass) : List AsmError :=
  p.errors ++ p.lines.flatMap (lineErrors p.symbols) ++ placeErrors p.origin 0 p.sourceLines

/-- The words of the lines, in order; a line in error has none. -/
def AsmPass.words (p : AsmPass) : List Word :=
  p.lines.filterMap fun l =>
    match lineWord p.symbols l with
    | .ok w => some w
    | .error _ => none

/-- A successful assembly (R130). -/
structure Assembled where
  origin : Addr
  program : List Word
  symbols : List (List Char × Addr)
  sourceMap : List (Addr × Nat)
  deriving DecidableEq, Repr

/-- The result of an assembly (R130): "success" or "failure", never both and never neither. -/
inductive AsmResult where
  | success (a : Assembled)
  | failure (errors : List AsmError)
  deriving DecidableEq, Repr

/-- What the passes over a text find. -/
def passOf (text : List Char) : AsmPass := structuralPass 1 (linesOf text) AsmPass.start

/-- `assemble(text)` (R130): on any error "the whole call fails and the partially-built word sequence is discarded". -/
def assemble (text : List Char) : AsmResult :=
  let p := passOf text
  if p.allErrors.isEmpty then
    .success
      { origin := p.origin, program := p.words, symbols := p.symbols
        sourceMap := p.sourceLines.mapIdx fun k line => (p.origin + BitVec.ofNat 12 k, line) }
  else .failure p.allErrors

/-- Loading what an assembly made; `symbols` and `sourceMap` "do not enter the block" (70_reset_and_hazards.md R381). -/
def loadAssembled (a : Assembled) (s : State) : Host.Outcome State Fault Refusal :=
  load a.origin (a.program.map BitVec.toNat) s

end Sys2Proof.Machine
end

