-- ==== Sys2Proof/Machine/HostPort.lean ====
section
/-! DEFINITION. What the host can do to the block between micro-steps (41_sequencer.md R214, 60_exceptions.md R361), the state
snapshot (10_state.md R45), and `run()` (R219). -/

namespace Sys2Proof.Machine

/-- A value a host write is given; a non-numeric one is refused (R214). -/
inductive HostValue where
  | number (v : Int)
  | nonNumeric
  deriving DecidableEq, Repr

/-- An answer of the input source. Only an integer is a "usable number" (45_io_system.md R314). -/
inductive InputAnswer where
  | integer (v : Int)
  | nonInteger
  | nonNumeric
  | notReady
  deriving DecidableEq, Repr

/-- The draw an answer makes (R314). -/
def InputAnswer.draw : InputAnswer → Option Int
  | .integer v => some v
  | .nonInteger | .nonNumeric | .notReady => none

/-- The address of a host access, if it is in [0, 0xFFF] (20_memory.md R79). -/
def hostAddr (a : Int) : Option Addr := if 0 ≤ a ∧ a < memWords then some (BitVec.ofInt 12 a) else none

/-- `readReg(r)` (R214). -/
def readRegPort (code : Nat) (s : State) : Host.Outcome Word Fault Refusal :=
  match regOfCode code with
  | some r => .next (s.readReg r)
  | none => .refused .noSuchRegister

/-- `readMem(a)` (R214, R79). -/
def readMemPort (a : Int) (s : State) : Host.Outcome Word Fault Refusal :=
  match hostAddr a with
  | some a => .next (s.readMem a)
  | none => .refused .addressOutOfRange

/-- `writeReg(r, v)`: `x[r] <- v mod 2^width(x[r])`, with a regset event (R214, R216). -/
def writeRegPort (code : Nat) (v : HostValue) (s : State) : Host.Outcome (State × Event) Fault Refusal :=
  match regOfCode code, v with
  | none, _ => .refused .noSuchRegister
  | some _, .nonNumeric => .refused .nonNumericValue
  | some r, .number v =>
    .next (s.writeReg r (wordOfInt v), writeEvent .regset (.reg r) s (s.writeReg r (wordOfInt v)))

/-- `writeMem(a, v)`: `v mod 2^16` at `a`, with a memset event (R79, R214, R216). -/
def writeMemPort (a : Int) (v : HostValue) (s : State) : Host.Outcome (State × Event) Fault Refusal :=
  match hostAddr a, v with
  | none, _ => .refused .addressOutOfRange
  | some _, .nonNumeric => .refused .nonNumericValue
  | some a, .number v =>
    .next (s.writeMem a (wordOfInt v), writeEvent .memset (.mem a) s (s.writeMem a (wordOfInt v)))

/-- The state snapshot: memory, the registers and the halted flag, and nothing else (R45). -/
structure Snapshot where
  ac : Word
  ir : Word
  mbr : Word
  pc : Addr
  mar : Addr
  inReg : Word
  outReg : Word
  mem : Memory
  halted : Bool
  deriving DecidableEq, Repr

/-- `state()` (R45). -/
def State.snapshot (s : State) : Snapshot :=
  { ac := s.ac, ir := s.ir, mbr := s.mbr, pc := s.pc, mar := s.mar, inReg := s.inReg, outReg := s.outReg, mem := s.mem
    halted := s.halted }

/-- The host's moves (R361). There is no other: concurrent mutation is forbidden to the host, and it has no access to upc,
dec, cmp, intr, fault or halted but by reset and load (10_state.md R42). -/
inductive HostAction where
  | writeReg (code : Nat) (v : HostValue)
  | writeMem (a : Int) (v : HostValue)
  | resetRegisters
  | load (origin : Addr) (program : List Nat)
  | answerInput (a : InputAnswer)
  deriving DecidableEq, Repr

/-- The state of a host write, without its event. -/
def stateOfWrite : Host.Outcome (State × Event) Fault Refusal → Host.Outcome State Fault Refusal
  | .next p => .next p.1
  | .fault r => .fault r
  | .refused r => .refused r

/-- What a host move does; a refused one changes nothing (R214, R381). -/
def hostAct (a : HostAction) (s : State) : Host.Outcome State Fault Refusal :=
  match a with
  | .writeReg code v => stateOfWrite (writeRegPort code v s)
  | .writeMem addr v => stateOfWrite (writeMemPort addr v s)
  | .resetRegisters => .next (resetRegisters s)
  | .load origin program => load origin program s
  | .answerInput answer => .next (s.setInputs (s.inputs ++ [answer.draw]))

/-- `run()` (R219): `step()` until halted, for at most the given number of calls. A run that has not halted by then is one
that is still going, or that waits for input that has not come. -/
def run : Nat → State → Host.Outcome State Fault Refusal
  | 0, s => .next s
  | calls + 1, s =>
    if s.halted then .next s
    else
      match step s with
      | .next t => run calls t
      | .fault r => .fault r
      | .refused r => .refused r

end Sys2Proof.Machine
end

