-- ==== Sys2Proof/Safety.lean ====
section
/-! DEFINITION. What counts as a sound state and a safe run, in the terms claims use: the reachable-state invariant
(41_sequencer.md R186) and the fault-free states. -/

namespace Sys2Proof.Machine

/-- upc is where R186 lets it be, in a block that is not halted: in the fetch, or between the first position and the step-end of the
decoded instruction's list. -/
def State.positionOk (s : State) : Prop :=
  s.upc.toNat ≤ 5 ∨ ∃ op, s.dec = some op ∧ 6 ≤ s.upc.toNat ∧ s.upc.toNat ≤ 6 + (microOps op).length

/-- The reachable-state invariant. `position` and `waiting` are R186; `halted` and `haltedIdle` are what R40 and 92_eei_decisions.md
D13 say of it; `upc` is R36's range; `mem` is the model's canonical memory. -/
structure State.Inv (s : State) : Prop where
  mem : s.mem.wf = true
  upc : s.upc.toNat ≤ 13
  position : s.positionOk ∨ s.halted = true
  waiting : s.intr ≠ .idle → s.dec = some .input ∧ s.upc = 7
  haltedIdle : s.halted = true → s.intr = .idle
  faultHalts : s.fault ≠ .none → s.halted = true

/-- The block waits for an input value (60_exceptions.md R354(b)). -/
def State.isWaiting (s : State) : Bool := !s.halted && s.intr == .needsValue

/-- No runtime fault has halted the block (R40, R340). -/
def State.safe (s : State) : Bool := s.fault == .none

/-- How many micro-steps progress in an instruction whose input, if it asks for one, is there
(70_reset_and_hazards.md R400, as its table prints them). -/
def cycleLength : Instr → Nat
  | .jns _ | .adr _ => 14
  | .load _ | .store _ | .add _ | .subt _ | .jumpI _ | .input _ => 10
  | .output _ | .jump _ | .loadImmi _ | .clear => 8
  | .skipCond _ _ => 9
  | .addI _ | .loadI _ | .storeI _ => 12
  | .halt _ => 7
  | .undefinedOpcode0xF _ => 6

/-- The address an instruction stores to, run in state `s` (R281, R232, R236); none for an instruction that stores nothing. -/
def storeAddr (i : Instr) (s : State) : Option Addr :=
  match i with
  | .jns x | .adr x | .store x => some x
  | .storeI x => some (low12 (s.readMem x))
  | .load _ | .add _ | .subt _ | .input _ | .output _ | .halt _ | .skipCond _ _ | .jump _ | .loadImmi _ | .addI _ | .jumpI _
  | .loadI _ | .clear | .undefinedOpcode0xF _ => none

/-- The word an instruction that stores puts there, run in state `s`: the return address of JnS, AC for the stores. -/
def storedWord (i : Instr) (s : State) : Word :=
  match i with
  | .jns _ | .adr _ => zext16 s.pc
  | .load _ | .store _ | .add _ | .subt _ | .input _ | .output _ | .halt _ | .skipCond _ _ | .jump _ | .loadImmi _ | .addI _
  | .jumpI _ | .loadI _ | .storeI _ | .clear | .undefinedOpcode0xF _ => s.ac

/-- The states reachable from power-on by micro-steps, with any draws, and host moves (R186, R361). -/
inductive Reachable : State → Prop where
  | powerOn : Reachable State.reset
  | micro {s t : State} {d : Option Int} {e : Event} : Reachable s → microStep s d = .moved t e → Reachable t
  | host {s t : State} {a : HostAction} : Reachable s → hostAct a s = .next t → Reachable t

/-- The state an outcome goes on in, if it goes on. -/
def nextState : Host.Outcome State Fault Refusal → Option State
  | .next s => some s
  | .fault _ => none
  | .refused _ => none

end Sys2Proof.Machine
end

