-- ==== Sys2Proof/Certificates/Slice0/Obligations.lean ====
section
/-! DEFINITION. The statements for the provers. `fetch s` is the state after the five fetch micro-steps, in which `exec` runs the
instruction from its Decode micro-step on. -/

open Sys2Proof Sys2Proof.Machine

/-! Reset and load. -/

/-- R382, with the two values R382 takes from decisions D14 and D19: the power-on state, and that it is the state `load` of an
empty program at origin 0 gives. The parameter, and the host's two empty lists, are the model's choice (log entries 4, 5, 6). -/
def Obligations.PowerOnIsLoadOfEmptyProgram : Prop :=
  State.reset = { ac := 0, ir := 0, mbr := 0, pc := 0, mar := 0, inReg := 0, outReg := 0, mem := [], halted := false, upc := 0,
                  dec := none, cmp := false, intr := .idle, fault := .none, origin := 0, cfg := { jnsAcWrite := true }, inputs := [],
                  outputs := [] } ∧
    (∀ a : Addr, State.reset.readMem a = 0) ∧ load 0 [] State.reset = .next State.reset

/-- R380: what `resetRegisters()` sets, that memory stays, and that it abandons whatever was under way. That intr and the fault code
are reset is the spec's own decision (D14, D19; log entry 14); that the parameters, the host's answers and the output stream stay is the
model's choice (log entries 4, 5, 6 and 14). -/
def Obligations.ResetRegistersRestartsAtOrigin : Prop :=
  ∀ s : State,
    resetRegisters s =
        { s with ac := 0, ir := 0, mbr := 0, mar := 0, inReg := 0, outReg := 0, pc := s.origin, halted := false, upc := 0,
                 dec := none, cmp := false, intr := .idle, fault := .none } ∧
      (resetRegisters s).atBoundary = true ∧ hostAct .resetRegisters s = .next (resetRegisters s)

/-- R381: a load that fits puts the image in memory and zero elsewhere, sets the last origin and resets; one that does not
fit is refused. The canonical form of memory, that the host's answers and the output stream stay, and the types of the words and
the origin are the model's choice (log entries 1, 2, 4, 5, 6 and 30). -/
def Obligations.LoadPlacesImageAndResets : Prop :=
  ∀ (origin : Addr) (program : List Nat) (s : State),
    (4096 < origin.toNat + program.length → load origin program s = .refused .programDoesNotFit) ∧
      (origin.toNat + program.length ≤ 4096 →
        ∃ m : Memory, m.wf = true ∧ load origin program s = .next (resetRegisters { s with mem := m, origin := origin }) ∧
          ∀ a : Addr, m.read a.toNat =
            if origin.toNat ≤ a.toNat ∧ a.toNat < origin.toNat + program.length
            then BitVec.ofNat 16 (program.getD (a.toNat - origin.toNat) 0) else 0)

/-! Encoding. -/

/-- Decoding an encoded instruction gives it back, with every operand and every ignored bit; an assembler alias gives the
instruction it is another spelling of (R100, R101, R102, R124, R125). -/
def Obligations.DecodeOfEncodeIsCanonical : Prop :=
  (∀ i : Instr, i.wellFormed = true → decodeWord (encode i) = i) ∧ ∀ i : Instr, decodeWord (encode i) = i.canonical

/-- R100, R104: every 16-bit word is an instruction word, and decoding drops none of its bits. -/
def Obligations.EveryWordDecodesAndEncodesBack : Prop :=
  ∀ w : Word, (decodeWord w).wellFormed = true ∧ encode (decodeWord w) = w

/-- R102, R103: the rows of the opcode map select each word exactly once, and the decoder takes the entry of that row. -/
def Obligations.DecoderFollowsOpcodeMap : Prop :=
  ∀ w : Word, ∃ r ∈ opcodeRows, r.selects w = true ∧ (decodeWord w).opcode = r.entry ∧ opcodeOf w = r.entry ∧
    ∀ r' ∈ opcodeRows, r'.selects w = true → r' = r

/-- Words written out from R100 and R102, and what they decode to. -/
def Obligations.WrittenOutWordsDecode : Prop :=
  decodeWord 0b0001000000000011 = .load 0x003 ∧ decodeWord 0b0000000000000100 = .jns 0x004 ∧
    decodeWord 0b1011000000000100 = .addI 0x004 ∧ decodeWord 0b1000100000000001 = .skipCond .pos 1 ∧
    decodeWord 0b0101101010111100 = .input 0xABC ∧ decodeWord 0b1111000100100011 = .undefinedOpcode0xF 0x123

/-- R101(d), R104(c): bits an instruction ignores do not change what it does. -/
def Obligations.IgnoredOperandBitsChangeNothing : Prop :=
  ∀ (x y : Addr) (c : Cond) (p q : BitVec 10) (s : State),
    exec (.input x) s = exec (.input y) s ∧ exec (.output x) s = exec (.output y) s ∧ exec (.halt x) s = exec (.halt y) s ∧
      exec (.skipCond c p) s = exec (.skipCond c q) s ∧ exec (.undefinedOpcode0xF x) s = exec (.undefinedOpcode0xF y) s

/-! The sequencer. -/

/-- R187 to R191: the five fetch micro-steps together, which `exec` starts after (log entry 9). -/
def Obligations.FetchLoadsWordAndIncrementsPC : Prop :=
  ∀ s : State, s.upc = 0 →
    fetch s = { s with mar := s.pc, mbr := s.readMem s.pc, ir := s.readMem s.pc, pc := s.pc + 1, upc := 5 }

/-- R187 to R192: each of the six fetch-decode micro-steps, with its trace kind. -/
def Obligations.FetchDecodeMicroSteps : Prop :=
  ∀ (s : State) (d : Option Int), s.halted = false → s.intr = .idle →
    (s.upc = 0 → ∃ e, microStep s d = .moved { s with upc := 1 } e ∧ e.kind = .stepStart ∧ e.payload = .startsAt s.pc) ∧
      (s.upc = 1 → ∃ e, microStep s d = .moved { s with mar := s.pc, upc := 2 } e ∧ e.kind = .registerTransfer) ∧
      (s.upc = 2 → ∃ e, microStep s d = .moved { s with mbr := s.readMem s.mar, upc := 3 } e ∧ e.kind = .memoryRead) ∧
      (s.upc = 3 → ∃ e, microStep s d = .moved { s with ir := s.mbr, upc := 4 } e ∧ e.kind = .registerTransfer) ∧
      (s.upc = 4 → ∃ e, microStep s d = .moved { s with pc := s.pc + 1, upc := 5 } e ∧ e.kind = .pcIncrement) ∧
      (s.upc = 5 → opcodeField s.ir ≠ 0xF →
        ∃ e op, op.bits = opcodeField s.ir ∧ microStep s d = .moved { s with dec := some op, upc := 6 } e ∧ e.kind = .decode) ∧
      (s.upc = 5 → opcodeField s.ir = 0xF →
        ∃ e, microStep s d = .moved { s with halted := true, fault := .unsupportedOpcode, upc := 6 } e ∧ e.kind = .halt ∧
          e.payload = .halted .unsupportedOpcode)

/-- At an instruction boundary, a step is the instruction that the word at PC encodes, run in the fetched state. That a step is one
call of `step()` is the model's choice (log entry 3). -/
def Obligations.StepRunsTheInstructionAtPC : Prop :=
  ∀ (s : State) (i : Instr), s.atBoundary = true → i.wellFormed = true → s.readMem s.pc = encode i →
    step s = exec i { s with mar := s.pc, mbr := s.readMem s.pc, ir := s.readMem s.pc, pc := s.pc + 1, upc := 5 }

/-- R184, R193, R194, R217: at an instruction boundary, the meanings that `step` dispatches to leave exactly the state that the
micro-step loop of `step()` leaves. That a step is a call of `step()`, that a meaning reads its own operand and that it starts at
Decode are the model's choice (log entries 3, 8 and 9). -/
def Obligations.StepIsTheMicroStepLoop : Prop :=
  ∀ s : State, s.atBoundary = true → ∃ (n : Nat) (completed : Bool) (t : State),
    microCycle s = .stopped n completed t ∧ step s = .next t ∧ completed = !t.isWaiting

/-- R400: the progressing micro-steps of each instruction. -/
def Obligations.MicroStepCountOfEveryInstruction : Prop :=
  ∀ (s : State) (i : Instr), s.atBoundary = true → i.wellFormed = true → s.readMem s.pc = encode i →
    (∀ x, i = .input x → ∃ v rest, s.inputs = some v :: rest) →
    ∃ t : State, microCycle s = .stopped (cycleLength i) true t

/-- A step, from any state, stops at an instruction boundary, or with the block halted, or waiting for input (R217). That a step
and a run of a halted block answer the same state is how the model says that `step()` returns it (log entry 10). -/
def Obligations.StepStopsAtBoundaryHaltOrWait : Prop :=
  (∀ s t : State, step s = .next t → t.atBoundary = true ∨ t.halted = true ∨ t.isWaiting = true) ∧
    ∀ (s : State) (calls : Nat), s.halted = true → step s = .next s ∧ run calls s = .next s

/-- R184, R185, R345: in a state of the invariant `microStep` is defined, and it makes no progress exactly when the block is
halted or asks for an input that is not there. -/
def Obligations.NoProgressOnlyWhenHaltedOrBlocked : Prop :=
  ∀ (s : State) (d : Option Int), s.Inv →
    (∀ r, microStep s d ≠ .refused r) ∧
      (microStep s d = .noProgress ↔ s.halted = true ∨ (s.intr = .needsValue ∧ d = none))

/-- R184, R218: the draw is consulted only when the block waits for a value. -/
def Obligations.DrawReadOnlyWhenValueNeeded : Prop :=
  ∀ (s : State) (d d' : Option Int), s.intr ≠ .needsValue → microStep s d = microStep s d'

/-- R185: a halted block makes no progress, whatever the draw, and of the host's moves only reset and load clear `halted`. -/
def Obligations.HaltedBlockStandsStill : Prop :=
  ∀ (s : State) (d : Option Int), s.halted = true →
    microStep s d = .noProgress ∧
      ∀ (a : HostAction) (t : State), hostAct a s = .next t → t.halted = false →
        a = .resetRegisters ∨ ∃ origin program, a = .load origin program

/-! The instructions, each from its rule: encoding, micro-op list, effect from its Decode on, and the micro-step count of its
whole cycle. -/

/-- R231. -/
def Obligations.LoadRule : Prop :=
  ∀ (x : Addr) (s : State),
    encode (.load x) = 0x1000 ||| zext16 x ∧ microOps .load = [.marFromIR, .memRd, .acFromMBR] ∧
      exec (.load x) s = .next { s with mar := x, mbr := s.readMem x, ac := s.readMem x, dec := some .load, upc := 0 } ∧
      (s.atBoundary = true → s.readMem s.pc = encode (.load x) →
        microCycle s = .stopped 10 true
          { fetch s with mar := x, mbr := s.readMem x, ac := s.readMem x, dec := some .load, upc := 0 })

/-- R232. -/
def Obligations.StoreRule : Prop :=
  ∀ (x : Addr) (s : State),
    encode (.store x) = 0x2000 ||| zext16 x ∧ microOps .store = [.marFromIR, .mbrFromAC, .memWr] ∧
      exec (.store x) s =
        .next { s with mar := x, mbr := s.ac, mem := s.mem.write x.toNat s.ac, dec := some .store, upc := 0 } ∧
      (s.mem.wf = true → (s.mem.write x.toNat s.ac).read x.toNat = s.ac) ∧
      (s.atBoundary = true → s.readMem s.pc = encode (.store x) →
        microCycle s = .stopped 10 true
          { fetch s with mar := x, mbr := s.ac, mem := s.mem.write x.toNat s.ac, dec := some .store, upc := 0 })

/-- R233. -/
def Obligations.LoadImmiRule : Prop :=
  ∀ (x : Addr) (s : State),
    encode (.loadImmi x) = 0xA000 ||| zext16 x ∧ microOps .loadImmi = [.aluLoadImmi] ∧
      exec (.loadImmi x) s = .next { s with ac := zext16 x, dec := some .loadImmi, upc := 0 } ∧
      (s.atBoundary = true → s.readMem s.pc = encode (.loadImmi x) →
        microCycle s = .stopped 8 true { fetch s with ac := zext16 x, dec := some .loadImmi, upc := 0 })

/-- R234: Clear is LoadImmi 0, in its word and in its effect. -/
def Obligations.ClearRule : Prop :=
  encode .clear = 0xA000 ∧ encode .clear = encode (.loadImmi 0) ∧ decodeWord (encode .clear) = .loadImmi 0 ∧
    ∀ s : State, exec .clear s = exec (.loadImmi 0) s ∧ exec .clear s = .next { s with ac := 0, dec := some .loadImmi, upc := 0 }

/-- R235. -/
def Obligations.LoadIRule : Prop :=
  ∀ (x : Addr) (s : State),
    encode (.loadI x) = 0xD000 ||| zext16 x ∧
      microOps .loadI = [.marFromIR, .memRd, .marFromMBR, .memRd, .acFromMBR] ∧
      exec (.loadI x) s =
        .next { s with mar := low12 (s.readMem x), mbr := s.readMem (low12 (s.readMem x)), ac := s.readMem (low12 (s.readMem x)),
                       dec := some .loadI, upc := 0 } ∧
      (s.atBoundary = true → s.readMem s.pc = encode (.loadI x) →
        microCycle s = .stopped 12 true
          { fetch s with mar := low12 (s.readMem x), mbr := s.readMem (low12 (s.readMem x)),
                         ac := s.readMem (low12 (s.readMem x)), dec := some .loadI, upc := 0 })

/-- R236. -/
def Obligations.StoreIRule : Prop :=
  ∀ (x : Addr) (s : State),
    encode (.storeI x) = 0xE000 ||| zext16 x ∧
      microOps .storeI = [.marFromIR, .memRd, .marFromMBR, .mbrFromAC, .memWr] ∧
      exec (.storeI x) s =
        .next { s with mar := low12 (s.readMem x), mbr := s.ac, mem := s.mem.write (low12 (s.readMem x)).toNat s.ac,
                       dec := some .storeI, upc := 0 } ∧
      (s.mem.wf = true → (s.mem.write (low12 (s.readMem x)).toNat s.ac).read (low12 (s.readMem x)).toNat = s.ac) ∧
      (s.atBoundary = true → s.readMem s.pc = encode (.storeI x) →
        microCycle s = .stopped 12 true
          { fetch s with mar := low12 (s.readMem x), mbr := s.ac, mem := s.mem.write (low12 (s.readMem x)).toNat s.ac,
                         dec := some .storeI, upc := 0 })

/-- R261. -/
def Obligations.AddRule : Prop :=
  ∀ (x : Addr) (s : State),
    encode (.add x) = 0x3000 ||| zext16 x ∧ microOps .add = [.marFromIR, .memRd, .aluAdd] ∧
      exec (.add x) s = .next { s with mar := x, mbr := s.readMem x, ac := s.ac + s.readMem x, dec := some .add, upc := 0 } ∧
      (s.atBoundary = true → s.readMem s.pc = encode (.add x) →
        microCycle s = .stopped 10 true
          { fetch s with mar := x, mbr := s.readMem x, ac := s.ac + s.readMem x, dec := some .add, upc := 0 })

/-- R262. -/
def Obligations.SubtRule : Prop :=
  ∀ (x : Addr) (s : State),
    encode (.subt x) = 0x4000 ||| zext16 x ∧ microOps .subt = [.marFromIR, .memRd, .aluSub] ∧
      exec (.subt x) s = .next { s with mar := x, mbr := s.readMem x, ac := s.ac - s.readMem x, dec := some .subt, upc := 0 } ∧
      (s.atBoundary = true → s.readMem s.pc = encode (.subt x) →
        microCycle s = .stopped 10 true
          { fetch s with mar := x, mbr := s.readMem x, ac := s.ac - s.readMem x, dec := some .subt, upc := 0 })

/-- R263. -/
def Obligations.AddIRule : Prop :=
  ∀ (x : Addr) (s : State),
    encode (.addI x) = 0xB000 ||| zext16 x ∧ microOps .addI = [.marFromIR, .memRd, .marFromMBR, .memRd, .aluAdd] ∧
      exec (.addI x) s =
        .next { s with mar := low12 (s.readMem x), mbr := s.readMem (low12 (s.readMem x)),
                       ac := s.ac + s.readMem (low12 (s.readMem x)), dec := some .addI, upc := 0 } ∧
      (s.atBoundary = true → s.readMem s.pc = encode (.addI x) →
        microCycle s = .stopped 12 true
          { fetch s with mar := low12 (s.readMem x), mbr := s.readMem (low12 (s.readMem x)),
                         ac := s.ac + s.readMem (low12 (s.readMem x)), dec := some .addI, upc := 0 })

/-- R281, for both values of `jns_ac_write`. `s.pc` is the PC after fetch, so the return address is stored at X. -/
def Obligations.JnSRule : Prop :=
  ∀ (x : Addr) (s : State),
    encode (.jns x) = 0x0000 ||| zext16 x ∧
      microOps .jns = [.mbrFromPC, .marFromIR, .memWr, .mbrFromIR, .acOne, .aluAdd, .pcFromAC] ∧
      exec (.jns x) s =
        .next { s with mar := x, mbr := zext16 x, mem := s.mem.write x.toNat (zext16 s.pc), pc := x + 1,
                       ac := if s.cfg.jnsAcWrite then zext16 x + 1 else s.ac, dec := some .jns, upc := 0 } ∧
      (s.mem.wf = true → (s.mem.write x.toNat (zext16 s.pc)).read x.toNat = zext16 s.pc) ∧
      (s.atBoundary = true → s.readMem s.pc = encode (.jns x) →
        microCycle s = .stopped 14 true
          { fetch s with mar := x, mbr := zext16 x, mem := s.mem.write x.toNat (zext16 (s.pc + 1)), pc := x + 1,
                         ac := if s.cfg.jnsAcWrite then zext16 x + 1 else s.ac, dec := some .jns, upc := 0 })

/-- R282: Adr is JnS, in its word and in its effect. -/
def Obligations.AdrRule : Prop :=
  ∀ (x : Addr) (s : State),
    encode (.adr x) = encode (.jns x) ∧ encode (.adr x) = 0x0000 ||| zext16 x ∧ decodeWord (encode (.adr x)) = .jns x ∧
      exec (.adr x) s = exec (.jns x) s ∧ ∃ t : State, exec (.adr x) s = .next t ∧ t.pc = x + 1

/-- R284, R285, R286: the flag is the selected comparison, and PC skips one word when it holds. -/
def Obligations.SkipCondRule : Prop :=
  ∀ (c : Cond) (ignored : BitVec 10) (s : State),
    encode (.skipCond c ignored) = 0x8000 ||| zext16 (skipCondOperand c ignored) ∧ microOps .skipCond = [.cmp, .skipInc] ∧
      evalCond (skipCondOperand c ignored) s.ac = some (condHolds c s.ac) ∧
      exec (.skipCond c ignored) s =
        .next { s with cmp := condHolds c s.ac, pc := if condHolds c s.ac then s.pc + 1 else s.pc, dec := some .skipCond,
                       upc := 0 } ∧
      (s.atBoundary = true → s.readMem s.pc = encode (.skipCond c ignored) →
        microCycle s = .stopped 9 true
          { fetch s with cmp := condHolds c s.ac, pc := if condHolds c s.ac then s.pc + 1 + 1 else s.pc + 1,
                         dec := some .skipCond, upc := 0 })

/-- R287. -/
def Obligations.JumpRule : Prop :=
  ∀ (x : Addr) (s : State),
    encode (.jump x) = 0x9000 ||| zext16 x ∧ microOps .jump = [.pcFromIR] ∧
      exec (.jump x) s = .next { s with pc := x, dec := some .jump, upc := 0 } ∧
      (s.atBoundary = true → s.readMem s.pc = encode (.jump x) →
        microCycle s = .stopped 8 true { fetch s with pc := x, dec := some .jump, upc := 0 })

/-- R288. -/
def Obligations.JumpIRule : Prop :=
  ∀ (x : Addr) (s : State),
    encode (.jumpI x) = 0xC000 ||| zext16 x ∧ microOps .jumpI = [.marFromIR, .memRd, .pcFromMBR] ∧
      exec (.jumpI x) s =
        .next { s with mar := x, mbr := s.readMem x, pc := low12 (s.readMem x), dec := some .jumpI, upc := 0 } ∧
      (s.atBoundary = true → s.readMem s.pc = encode (.jumpI x) →
        microCycle s = .stopped 10 true
          { fetch s with mar := x, mbr := s.readMem x, pc := low12 (s.readMem x), dec := some .jumpI, upc := 0 })

/-- R310, R311, R312: with a usable answer `v` at hand the instruction completes with IN = AC = `v mod 2^16`. That the answers stand
in a list of the state is the model's choice (log entry 4). -/
def Obligations.InputRuleWithAnswer : Prop :=
  ∀ (x : Addr) (v : Int) (rest : List (Option Int)) (s : State), s.inputs = some v :: rest →
    encode (.input 0) = 0x5000 ∧ microOps .input = [.inputReq] ∧
      exec (.input x) s =
        .next { s with inReg := BitVec.ofInt 16 v, ac := BitVec.ofInt 16 v, intr := .idle, inputs := rest, dec := some .input,
                       upc := 0 } ∧
      (s.atBoundary = true → s.readMem s.pc = encode (.input x) →
        microCycle s = .stopped 10 true
          { fetch s with inReg := BitVec.ofInt 16 v, ac := BitVec.ofInt 16 v, inputs := rest, dec := some .input, upc := 0 })

/-- R310, R313: without a usable answer Input leaves the block waiting, upc at 7, no register or memory word changed. That an empty
list answers "not ready" is the model's choice (log entry 4). -/
def Obligations.InputWaitsWithoutAnswer : Prop :=
  ∀ (x : Addr) (s : State), s.inputs.head?.join = none →
    exec (.input x) s =
      .next { s with intr := .needsValue, dec := some .input, upc := 7, inputs := s.inputs.tail }

/-- R311, R313: however often the source is not ready, the first usable answer completes the waiting Input, and nothing but the
spent answers has changed until then. The list of answers is the model's choice (log entry 4), and so is the answer of a step that
makes no progress (log entry 10). -/
def Obligations.WaitingInputTakesFirstUsableAnswer : Prop :=
  ∀ (k : Nat) (v : Int) (rest : List (Option Int)) (s : State),
    s.isWaiting = true → s.dec = some .input → s.upc = 7 → s.inputs = List.replicate k none ++ some v :: rest →
    run k s = .next { s with inputs := some v :: rest } ∧
      run (k + 1) s =
        .next { s with inReg := BitVec.ofInt 16 v, ac := BitVec.ofInt 16 v, intr := .idle, inputs := rest, upc := 0 }

/-- R313: with no answer coming the block waits for ever in the same state, neither halted nor done. The list of answers is the
model's choice (log entry 4), and so is the answer of a step that makes no progress (log entry 10). -/
def Obligations.BlockWithoutAnswersWaitsForever : Prop :=
  ∀ (s : State) (k : Nat), s.isWaiting = true → s.inputs = [] →
    microStep s none = .noProgress ∧ step s = .next s ∧ run k s = .next s ∧ s.halted = false

/-- R315; the last two clauses are the event that carries the value. That the values of the output events stand in a list of the
state is the model's choice (log entry 5). -/
def Obligations.OutputRule : Prop :=
  ∀ (x : Addr) (s : State),
    encode (.output 0) = 0x6000 ∧ microOps .output = [.outFromAC] ∧
      exec (.output x) s =
        .next { s with outReg := s.ac, outputs := s.outputs ++ [s.ac], dec := some .output, upc := 0 } ∧
      (s.atBoundary = true → s.readMem s.pc = encode (.output x) →
        microCycle s = .stopped 8 true
          { fetch s with outReg := s.ac, outputs := s.outputs ++ [s.ac], dec := some .output, upc := 0 }) ∧
      (eventOf x .outFromAC s).kind = .output ∧
      (eventOf x .outFromAC s).written = some { dest := .reg .outReg, old := s.outReg, new := s.ac }

/-- R316: a Halt leaves the fault code alone, ends without a step-end, and nothing runs after it. -/
def Obligations.HaltRule : Prop :=
  ∀ (x : Addr) (s : State),
    encode (.halt 0) = 0x7000 ∧ microOps .halt = [.haltOp] ∧
      exec (.halt x) s = .next { s with halted := true, dec := some .halt, upc := 7 } ∧
      (s.atBoundary = true → s.readMem s.pc = encode (.halt x) →
        microCycle s = .stopped 7 true { fetch s with halted := true, dec := some .halt, upc := 7 }) ∧
      (eventOf x .haltOp s).kind = .halt ∧ (eventOf x .haltOp s).payload = .halted .none ∧
      ∀ d : Option Int, microStep { s with halted := true, dec := some .halt, upc := 7 } d = .noProgress

/-- R317: opcode 0xF halts the block with fault 1 at its Decode micro-step, with dec unchanged. -/
def Obligations.UndefinedOpcodeRule : Prop :=
  ∀ (x : Addr) (s : State),
    encode (.undefinedOpcode0xF x) = 0xF000 ||| zext16 x ∧ opcodeOf (encode (.undefinedOpcode0xF x)) = none ∧
      exec (.undefinedOpcode0xF x) s = .next { s with halted := true, fault := .unsupportedOpcode, upc := 6 } ∧
      (s.atBoundary = true → s.readMem s.pc = encode (.undefinedOpcode0xF x) →
        microCycle s = .stopped 6 true { fetch s with halted := true, fault := .unsupportedOpcode, upc := 6 }) ∧
      (s.ir = encode (.undefinedOpcode0xF x) →
        (eventOf x .decode s).kind = .halt ∧ (eventOf x .decode s).payload = .halted .unsupportedOpcode)

/-! What instructions leave unchanged. -/

/-- Every word of memory after an instruction: the word stored at the address the instruction stores to, and every other word
as before (R232, R236, R281; nothing else stores). -/
def Obligations.MemoryChangesOnlyWhereStored : Prop :=
  ∀ (i : Instr) (s t : State), s.mem.wf = true → exec i s = .next t →
    (∀ a : Addr, storeAddr i s = some a → t.readMem a = storedWord i s) ∧
      ∀ b : Addr, storeAddr i s ≠ some b → t.readMem b = s.readMem b

/-- The frame of every instruction but for memory: which may change AC, PC, IN, OUT, cmp, the halted flag and the fault code, and
that none changes IR, the last origin or the parameters. -/
def Obligations.RegistersChangeOnlyWhereNamed : Prop :=
  ∀ (i : Instr) (s t : State), exec i s = .next t →
    (t.ir = s.ir ∧ t.origin = s.origin ∧ t.cfg = s.cfg) ∧
      (t.ac ≠ s.ac → ∃ x, i ∈ [.jns x, .adr x, .load x, .add x, .subt x, .input x, .loadImmi x, .clear, .addI x, .loadI x]) ∧
      (t.pc ≠ s.pc → ∃ x c p, i ∈ [.jns x, .adr x, .skipCond c p, .jump x, .jumpI x]) ∧
      (t.mar ≠ s.mar → ∃ x, i ∈ [.jns x, .adr x, .load x, .store x, .add x, .subt x, .addI x, .jumpI x, .loadI x, .storeI x]) ∧
      (t.mbr ≠ s.mbr → ∃ x, i ∈ [.jns x, .adr x, .load x, .store x, .add x, .subt x, .addI x, .jumpI x, .loadI x, .storeI x]) ∧
      (t.cmp ≠ s.cmp → ∃ c p, i = .skipCond c p) ∧
      (t.inReg ≠ s.inReg ∨ t.intr ≠ s.intr ∨ t.inputs ≠ s.inputs → ∃ x, i = .input x) ∧
      (t.outReg ≠ s.outReg ∨ t.outputs ≠ s.outputs → ∃ x, i = .output x) ∧
      (t.halted ≠ s.halted → ∃ x, i = .halt x ∨ i = .undefinedOpcode0xF x) ∧
      (t.fault ≠ s.fault → ∃ x, i = .undefinedOpcode0xF x)

/-- R80: in a canonical memory a read gives the last word written to its address, whatever was written elsewhere, and a write
keeps the canonical form. -/
def Obligations.MemoryReadsLastWrite : Prop :=
  ∀ (m : Memory) (a b : Addr) (w : Word), m.wf = true →
    (m.write a.toNat w).wf = true ∧ (m.write a.toNat w).read b.toNat = if b = a then w else m.read b.toNat

/-- R83: a word stored over the instruction at PC is the instruction the next step runs: by Store, by StoreI through a pointer to it, and
by a host write at an instruction boundary. (A JnS that stores there goes on at the word after, R281.) -/
def Obligations.StoreIsSeenByNextFetch : Prop :=
  ∀ s : State, s.mem.wf = true → s.halted = false → s.intr = .idle →
    (∃ t, exec (.store s.pc) s = .next t ∧ (fetch t).ir = s.ac ∧ step t = exec (decodeWord s.ac) (fetch t)) ∧
      (∀ x : Addr, low12 (s.readMem x) = s.pc →
        ∃ t, exec (.storeI x) s = .next t ∧ (fetch t).ir = s.ac ∧ step t = exec (decodeWord s.ac) (fetch t)) ∧
      ∀ v : Int, s.upc = 0 →
        ∃ t, hostAct (.writeMem s.pc.toNat (.number v)) s = .next t ∧ (fetch t).ir = BitVec.ofInt 16 v ∧
          step t = exec (decodeWord (BitVec.ofInt 16 v)) (fetch t)

/-- R283: a JumpI through X returns to the word after the JnS X that called, whatever ran between, if it left the slot alone. -/
def Obligations.JumpIReturnsFromJnS : Prop :=
  ∀ (x : Addr) (s t u v : State), s.mem.wf = true → exec (.jns x) s = .next t → u.readMem x = t.readMem x →
    exec (.jumpI x) u = .next v → t.pc = x + 1 ∧ v.pc = s.pc

/-! The ALU and the comparisons. -/

/-- R151, R152, R153, R156: modular arithmetic, the same read unsigned or signed, and an immediate never negative. -/
def Obligations.AluArithmeticIsModular : Prop :=
  ∀ (ac mbr : Word) (x : Addr),
    (aluAdd ac mbr).toNat = (ac.toNat + mbr.toNat) % 65536 ∧
      (aluSub ac mbr).toNat = (ac.toNat + 65536 - mbr.toNat) % 65536 ∧
      (aluAdd ac mbr).toInt = (ac.toInt + mbr.toInt).bmod 65536 ∧
      (aluSub ac mbr).toInt = (ac.toInt - mbr.toInt).bmod 65536 ∧
      (aluLoadImmi x).toNat = x.toNat ∧ acNeg (aluLoadImmi x) = false

/-- R154: the comparisons read AC as two's complement; exactly one of the first three holds. -/
def Obligations.ComparisonsReadSignedAC : Prop :=
  ∀ ac : Word,
    (acNeg ac = true ↔ ac.toInt < 0) ∧ (acZero ac = true ↔ ac.toInt = 0) ∧ (acPos ac = true ↔ 0 < ac.toInt) ∧
      (acNonZero ac = true ↔ ac.toInt ≠ 0) ∧
      (acNeg ac).toNat + (acZero ac).toNat + (acPos ac).toNat = 1 ∧ acNonZero ac = (acNeg ac || acPos ac)

/-- R155, R105: each selector selects its comparison, the low ten bits take no part, and the fault arm is unreachable. -/
def Obligations.ConditionSelectedByTwoBits : Prop :=
  ∀ (x : Addr) (ac : Word),
    (x &&& 0xC00 = 0x000 → evalCond x ac = some (acNeg ac)) ∧ (x &&& 0xC00 = 0x400 → evalCond x ac = some (acZero ac)) ∧
      (x &&& 0xC00 = 0x800 → evalCond x ac = some (acPos ac)) ∧ (x &&& 0xC00 = 0xC00 → evalCond x ac = some (acNonZero ac)) ∧
      (∀ y : Addr, x &&& 0xC00 = y &&& 0xC00 → evalCond x ac = evalCond y ac) ∧ evalCond x ac ≠ none

/-! Faults. -/

/-- R341: the micro-step that raises a fault halts the block with its code and advances upc, and changes nothing else; its event is a
halt that carries the code. -/
def Obligations.RaisedFaultOnlyHalts : Prop :=
  ∀ (s t : State) (d : Option Int) (e : Event), microStep s d = .moved t e → s.fault = .none → t.fault ≠ .none →
    t = { s with halted := true, fault := t.fault, upc := s.upc + 1 } ∧ e.kind = .halt ∧ e.payload = .halted t.fault ∧
      t.fault.text ≠ none

/-- R342, C4: no micro-step raises fault 2, and fault 1 comes from the Decode of an 0xF word alone. -/
def Obligations.OnlyDecodeOfOpcodeFFaults : Prop :=
  ∀ (s t : State) (d : Option Int) (e : Event), microStep s d = .moved t e → s.fault = .none → t.fault ≠ .none →
    t.fault = .unsupportedOpcode ∧ s.upc = 5 ∧ opcodeField s.ir = 0xF

/-! The invariant. -/

/-- The power-on state meets the invariant. -/
def Obligations.PowerOnMeetsInvariant : Prop := State.reset.Inv

/-- Every micro-step keeps the invariant, whatever the draw (R186; the canonical memory is the model's own, log entry 2). -/
def Obligations.MicroStepKeepsInvariant : Prop :=
  ∀ (s t : State) (d : Option Int) (e : Event), s.Inv → microStep s d = .moved t e → t.Inv

/-- Every step keeps the invariant. -/
def Obligations.StepKeepsInvariant : Prop := ∀ s t : State, s.Inv → step s = .next t → t.Inv

/-- Every host move keeps the invariant (R186, R214, R380, R381). -/
def Obligations.HostMoveKeepsInvariant : Prop := ∀ (a : HostAction) (s t : State), s.Inv → hostAct a s = .next t → t.Inv

/-- R186: what it says of every reachable state. -/
def Obligations.ReachableStatesAreInPosition : Prop :=
  ∀ s : State, Reachable s →
    (s.upc.toNat ≤ 5 ∨ (∃ op, s.dec = some op ∧ 6 ≤ s.upc.toNat ∧ s.upc.toNat ≤ 6 + (microOps op).length) ∨ s.halted = true) ∧
      (s.intr ≠ .idle → s.dec = some .input ∧ s.upc = 7)

/-! The host. -/

/-- R31, R32, R214: a host register write stores the value modulo the register's width and changes no other register, no memory,
no control state and not the last origin; a code of 7 or more and a non-numeric value are refused. That codes beyond 7 are refused
too, and that the code is tested before the value, is the model's choice (log entry 23). -/
def Obligations.HostRegisterWriteIsMasked : Prop :=
  ∀ (code : Nat) (v : Int) (s : State),
    (∀ r, regOfCode code = some r →
      ∃ e t, writeRegPort code (.number v) s = .next (t, e) ∧
        (t.readReg r).toNat = (v % (if r = .pc ∨ r = .mar then 4096 else 65536)).toNat ∧
        (∀ q, q ≠ r → t.readReg q = s.readReg q) ∧
        t.mem = s.mem ∧ t.origin = s.origin ∧ t.halted = s.halted ∧ t.upc = s.upc ∧ t.dec = s.dec ∧ t.cmp = s.cmp ∧ t.intr = s.intr ∧
        t.fault = s.fault ∧ e.kind = .regset ∧ e.written = some ⟨.reg r, s.readReg r, t.readReg r⟩ ∧
        writeRegPort code .nonNumeric s = .refused .nonNumericValue) ∧
      (7 ≤ code → ∀ value, writeRegPort code value s = .refused .noSuchRegister)

/-- R79, R214, R216: a host memory write stores the value modulo 2^16 at an address in range, changes nothing else, and emits a memset
event with the old and the new word; elsewhere it is refused. That the address is tested before the value is the model's choice
(log entry 23). -/
def Obligations.HostMemoryWriteIsMasked : Prop :=
  ∀ (a v : Int) (s : State), s.mem.wf = true →
    (0 ≤ a ∧ a ≤ 0xFFF →
      ∃ e t, writeMemPort a (.number v) s = .next (t, e) ∧ t = { s with mem := t.mem } ∧
        (∀ b : Addr, t.readMem b = if (b.toNat : Int) = a then BitVec.ofInt 16 v else s.readMem b) ∧ e.kind = .memset ∧
        e.written = some ⟨.mem (BitVec.ofInt 12 a), s.readMem (BitVec.ofInt 12 a), BitVec.ofInt 16 v⟩ ∧
        writeMemPort a .nonNumeric s = .refused .nonNumericValue) ∧
      (a < 0 ∨ 0xFFF < a → ∀ value, writeMemPort a value s = .refused .addressOutOfRange)

/-- R197, R392(a): IR written by the host between a Load's Decode and its first execute micro-op changes the operand, not the
operation. -/
def Obligations.PokedInstructionRegisterChangesOperandOnly : Prop :=
  ∀ (s : State) (w : Word), s.halted = false → s.intr = .idle → s.upc = 6 → s.dec = some .load →
    microCycle (s.writeReg .ir w) =
      .stopped 4 true { s with ir := w, mar := operandField w, mbr := s.readMem (operandField w), ac := s.readMem (operandField w),
                               upc := 0 }

/-! The trace. -/

/-- S6 and R216: every progressing micro-step's event is enough to rebuild the state before it, and so a run is rewound to its
start. That the event carries the old dec and cmp as well is the model's choice (log entry 15). -/
def Obligations.TraceRewindsRun : Prop :=
  ∀ (ds : List (Option Int)) (s : State), s.Inv → rewindAll (microRun ds s).2 (microRun ds s).1 = s

/-- R315, R216: the output stream, which is the model's own field (log entry 5), grows by the value of each output event and by
nothing else. -/
def Obligations.OutputStreamIsOutputEvents : Prop :=
  ∀ (s t : State) (d : Option Int) (e : Event), microStep s d = .moved t e →
    (e.kind = .output → t.outputs = s.outputs ++ [s.ac] ∧ e.written = some ⟨.reg .outReg, s.outReg, s.ac⟩) ∧
      (e.kind ≠ .output → t.outputs = s.outputs ∧ t.outReg = s.outReg)

/-! The assembler. -/

/-- R130, R128: an assembly fails with at least one error or gives a program that fits in memory from its origin, so that it
loads. -/
def Obligations.AssembledProgramFitsAndLoads : Prop :=
  ∀ (text : List Char) (s : State),
    (assemble text ≠ .failure []) ∧
      ∀ a, assemble text = .success a → a.origin.toNat + a.program.length ≤ 4096 ∧
        loadAssembled a s = .next (loaded a.origin (a.program.map BitVec.toNat) s)

/-- R123, R125, R131: the word of each mnemonic with an operand that resolves to X, and of each that takes none. -/
def Obligations.AssembledWordOfEachMnemonic : Prop :=
  ∀ (symbols : List (List Char × Addr)) (t : List Char) (x : Addr) (line index : Nat), operandValue symbols t = .ok x →
    (∀ row ∈ [("JnS", 0x0000#16), ("Adr", 0x0000#16), ("Load", 0x1000#16), ("Store", 0x2000#16), ("Add", 0x3000#16),
              ("Subt", 0x4000#16), ("SkipCond", 0x8000#16), ("Jump", 0x9000#16), ("LoadImmi", 0xA000#16), ("AddI", 0xB000#16),
              ("JumpI", 0xC000#16), ("LoadI", 0xD000#16), ("StoreI", 0xE000#16)],
      lineWord symbols ⟨line, index, row.1.toList, some t⟩ = .ok (row.2 ||| zext16 x) ∧
        lineWord symbols ⟨line, index, row.1.toList, none⟩ = .error .operandMissing) ∧
      ∀ row ∈ [("Input", 0x5000#16), ("Output", 0x6000#16), ("Halt", 0x7000#16), ("Clear", 0xA000#16)],
        lineWord symbols ⟨line, index, row.1.toList, none⟩ = .ok row.2 ∧
          lineWord symbols ⟨line, index, row.1.toList, some t⟩ = .error .operandUnexpected
end

