-- ==== Sys2Proof/Laws/Assembler.lean ====
section
/-! SUPPORT. What the parts of the assembler's passes leave, and when no place lies past the end of memory. -/

namespace Sys2Proof.Machine

/-- Defining a label changes the labels and the errors only. -/
theorem AsmPass.bind_frame (p : AsmPass) (n : Nat) (i : Option Nat) (l : Option (List Char)) :
    (p.bind n i l).lines = p.lines ∧ (p.bind n i l).sourceLines = p.sourceLines ∧ (p.bind n i l).count = p.count ∧
      (p.bind n i l).origin = p.origin := by
  unfold AsmPass.bind
  split
  · exact ⟨rfl, rfl, rfl, rfl⟩
  · split <;> exact ⟨rfl, rfl, rfl, rfl⟩

/-- An `org` line takes no place (30_encoding.md R128). -/
theorem AsmPass.org_frame (p : AsmPass) (n : Nat) (a : Option (List Char)) :
    (p.org n a).lines = p.lines ∧ (p.org n a).sourceLines = p.sourceLines ∧ (p.org n a).count = p.count ∧
      (p.org n a).labels = p.labels := by
  unfold AsmPass.org
  split
  · exact ⟨rfl, rfl, rfl, rfl⟩
  · split
    · exact ⟨rfl, rfl, rfl, rfl⟩
    · split <;> exact ⟨rfl, rfl, rfl, rfl⟩

/-- Every line to encode has a place. -/
theorem structuralPass_lines_le (ls : List (List Char)) (n : Nat) (p : AsmPass) (h : p.lines.length ≤ p.sourceLines.length) :
    (structuralPass n ls p).lines.length ≤ (structuralPass n ls p).sourceLines.length := by
  induction ls generalizing n p with
  | nil => exact h
  | cons l ls ih =>
    simp only [structuralPass]
    split
    · exact ih _ _ h
    · exact ih _ _ (by simp only [AsmPass.place, AsmPass.err, List.length_append, List.length_singleton]; omega)
    · split
      · simpa [AsmPass.bind_frame] using h
      · exact ih _ _ (by simpa [AsmPass.bind_frame, AsmPass.org_frame] using h)
      · exact ih _ _ (by simpa [AsmPass.place, AsmPass.keep, AsmPass.bind_frame] using h)

/-- Without an error for a place, all the places lie in memory (R128). -/
theorem placeErrors_eq_nil (origin : Addr) (ls : List Nat) (k : Nat) (h : placeErrors origin k ls = []) :
    ls = [] ∨ origin.toNat + k + ls.length ≤ memWords := by
  induction ls generalizing k with
  | nil => exact .inl rfl
  | cons l ls ih =>
    simp only [placeErrors] at h
    split at h
    · rename_i hm
      rcases ih _ h with rfl | h <;> simp only [List.length_cons, List.length_nil] <;> omega
    · cases h

end Sys2Proof.Machine
end

