-- ==== Sys2Proof/Laws/Decode.lean ====
section
/-! SUPPORT. The fields of a word made from an opcode and an operand, and the decoder's table on an entry's own bits. -/

namespace Sys2Proof

@[simp] theorem opcodeField_append (op : BitVec 4) (x : Addr) : opcodeField (op ++ x : Word) = op :=
  BitVec.extractLsb'_append_eq_left

@[simp] theorem operandField_append (op : BitVec 4) (x : Addr) : operandField (op ++ x : Word) = x :=
  BitVec.extractLsb'_append_eq_right

/-- A word is its opcode field above its operand field (R100). -/
theorem opcodeField_append_operandField (w : Word) : (opcodeField w ++ operandField w : Word) = w := by
  apply BitVec.eq_of_getLsbD_eq
  intro i hi
  simp only [opcodeField, operandField, BitVec.getLsbD_append, BitVec.getLsbD_extractLsb']
  by_cases h : i < 12
  · simp [h]
  · have h4 : i - 12 < 4 := by omega
    have hi' : 12 + (i - 12) = i := by omega
    simp [h, h4, hi']

@[simp] theorem opcodeOfField_bits (op : Opcode) : opcodeOfField op.bits = some op := by
  cases op <;> rfl

/-- The entry a field selects has that field as its bits. -/
theorem bits_of_opcodeOfField : ∀ (b : BitVec 4) (op : Opcode), opcodeOfField b = some op → op.bits = b := by decide

/-- The one field without an entry is 0xF. -/
theorem opcodeOfField_eq_none : ∀ b : BitVec 4, opcodeOfField b = none ↔ b = 0xF := by decide

@[simp] theorem condOfOperand_skipCondOperand (c : Cond) (p : BitVec 10) : condOfOperand (skipCondOperand c p) = c := by
  have h : (skipCondOperand c p).extractLsb' 10 2 = c.bits := BitVec.extractLsb'_append_eq_left
  cases c <;> simp only [condOfOperand, h] <;> rfl

@[simp] theorem ignoredBits_skipCondOperand (c : Cond) (p : BitVec 10) : (skipCondOperand c p).extractLsb' 0 10 = p :=
  BitVec.extractLsb'_append_eq_right

end Sys2Proof
end

