-- ==== Sys2Proof/Laws/Memory.lean ====
section
/-! SUPPORT. The laws of memory: the canonical form is kept by every operation, and reads see the last write. -/

namespace Sys2Proof.Machine

@[simp] theorem Memory.read_nil (a : Nat) : Memory.read [] a = unlistedWord := rfl

theorem Memory.read_cons (b : Nat) (v : Word) (rest : Memory) (a : Nat) :
    Memory.read ((b, v) :: rest) a = if b = a then v else Memory.read rest a := rfl

/-- What the canonical form says of a non-empty memory. -/
theorem Memory.wf_cons {a : Nat} {v : Word} {rest : Memory} :
    Memory.wf ((a, v) :: rest) = true ↔
      a < memWords ∧ v ≠ unlistedWord ∧ (∀ c ∈ rest, a < c.1) ∧ Memory.wf rest = true := by
  simp [Memory.wf, and_assoc]

@[simp] theorem Memory.wf_nil : Memory.wf [] = true := rfl

/-- An address below every cell reads as unlisted. -/
theorem Memory.read_below {m : Memory} {a : Nat} (h : ∀ c ∈ m, a < c.1) : m.read a = unlistedWord := by
  induction m with
  | nil => rfl
  | cons c rest ih =>
    obtain ⟨b, v⟩ := c
    have hb : a < b := h (b, v) (by simp)
    rw [Memory.read_cons, if_neg (by omega)]
    exact ih fun c hc => h c (by simp [hc])

/-- The cells for a word read as that word. -/
theorem Memory.read_cellsFor (a : Nat) (w : Word) (rest : Memory) (b : Nat) (h : ∀ c ∈ rest, a < c.1) :
    Memory.read (cellsFor a w ++ rest) b = if b = a then w else rest.read b := by
  unfold cellsFor
  by_cases hw : w = unlistedWord
  · by_cases hb : b = a
    · subst hb; simp [hw, Memory.read_below h]
    · simp [hw, hb]
  · by_cases hb : b = a
    · simp [hw, hb, Memory.read_cons]
    · simp [hw, hb, Memory.read_cons, Ne.symm hb]

/-- Every cell of a write's result is at the written address or was there before. -/
theorem Memory.mem_write {m : Memory} {a : Nat} {w : Word} {c : Cell} (h : c ∈ m.write a w) : c.1 = a ∨ c ∈ m := by
  have cells : ∀ c ∈ cellsFor a w, c.1 = a := by
    intro c hc; unfold cellsFor at hc; split at hc <;> simp_all
  induction m with
  | nil => exact .inl (cells c h)
  | cons d rest ih =>
    obtain ⟨b, v⟩ := d
    simp only [Memory.write] at h
    split at h
    · rcases List.mem_append.mp h with h | h
      · exact .inl (cells c h)
      · exact .inr h
    · split at h
      · rcases List.mem_append.mp h with h | h
        · exact .inl (cells c h)
        · exact .inr (by simp [h])
      · rcases List.mem_cons.mp h with h | h
        · exact .inr (by simp [h])
        · rcases ih h with h | h
          · exact .inl h
          · exact .inr (by simp [h])

/-- The cells for a word below a canonical memory make a canonical memory. -/
theorem Memory.wf_cellsFor {a : Nat} {w : Word} {rest : Memory} (ha : a < memWords) (h : ∀ c ∈ rest, a < c.1)
    (hr : rest.wf = true) : Memory.wf (cellsFor a w ++ rest) = true := by
  unfold cellsFor
  split
  · simpa using hr
  · exact Memory.wf_cons.mpr ⟨ha, ‹_›, h, hr⟩

/-- A write at an address of the block keeps the canonical form. -/
theorem Memory.wf_write {m : Memory} {a : Nat} {w : Word} (h : m.wf = true) (ha : a < memWords) : (m.write a w).wf = true := by
  induction m with
  | nil => simpa [Memory.write] using Memory.wf_cellsFor (rest := []) (w := w) ha (by simp) rfl
  | cons c rest ih =>
    obtain ⟨b, v⟩ := c
    obtain ⟨hb, hv, hlt, hrest⟩ := Memory.wf_cons.mp h
    simp only [Memory.write]
    split
    · refine Memory.wf_cellsFor ha ?_ h
      intro c hc
      rcases List.mem_cons.mp hc with rfl | hc
      · assumption
      · exact Nat.lt_trans ‹a < b› (hlt c hc)
    · split
      · subst a; exact Memory.wf_cellsFor ha hlt hrest
      · refine Memory.wf_cons.mpr ⟨hb, hv, ?_, ih hrest⟩
        intro c hc
        rcases Memory.mem_write hc with hc | hc
        · omega
        · exact hlt c hc

/-- In a canonical memory a read after a write gives the written word at its address and the old word elsewhere. -/
theorem Memory.read_write {m : Memory} (h : m.wf = true) (a : Nat) (w : Word) (b : Nat) :
    (m.write a w).read b = if b = a then w else m.read b := by
  induction m with
  | nil => simpa [Memory.write] using Memory.read_cellsFor a w [] b (by simp)
  | cons c rest ih =>
    obtain ⟨d, v⟩ := c
    obtain ⟨_, _, hlt, hrest⟩ := Memory.wf_cons.mp h
    simp only [Memory.write]
    split
    · refine Memory.read_cellsFor a w _ b ?_
      intro c hc
      rcases List.mem_cons.mp hc with rfl | hc
      · assumption
      · exact Nat.lt_trans ‹a < d› (hlt c hc)
    · split
      · subst a
        rw [Memory.read_cellsFor d w rest b hlt, Memory.read_cons]
        by_cases hb : b = d
        · simp [hb]
        · simp [hb, Ne.symm hb]
      · rw [Memory.read_cons, Memory.read_cons, ih hrest]
        by_cases hb : d = b
        · subst hb; simp; omega
        · simp [hb]

/-- Writing the old word back undoes a write: canonical memories that are equal are equal data. -/
theorem Memory.write_read_back {m : Memory} (h : m.wf = true) (a : Nat) (w : Word) : (m.write a w).write a (m.read a) = m := by
  induction m with
  | nil => by_cases hw : w = unlistedWord <;> simp [Memory.write, cellsFor, hw, Memory.read]
  | cons c rest ih =>
    obtain ⟨b, v⟩ := c
    obtain ⟨_, hv, hlt, hrest⟩ := Memory.wf_cons.mp h
    rcases Nat.lt_trichotomy a b with hab | hab | hab
    · have hb : b ≠ a := by omega
      have hr : Memory.read rest a = unlistedWord := Memory.read_below fun c hc => Nat.lt_trans hab (hlt c hc)
      by_cases hw : w = unlistedWord <;> simp [Memory.write, cellsFor, hw, hab, Memory.read_cons, hb, hr]
    · subst hab
      by_cases hw : w = unlistedWord
      · cases rest with
        | nil => simp [Memory.write, cellsFor, hw, Memory.read_cons, hv]
        | cons d rest =>
          have hd : a < d.1 := hlt d (by simp)
          simp [Memory.write, cellsFor, hw, Memory.read_cons, hv, hd]
      · simp [Memory.write, cellsFor, hw, Memory.read_cons, hv]
    · have h1 : ¬ a < b := by omega
      have h2 : a ≠ b := by omega
      simp [Memory.write, h1, h2, Memory.read_cons, Ne.symm h2, ih hrest]

/-- Every cell of an image lies in the image's range. -/
theorem imageFrom_range {ws : List Nat} {a : Nat} {c : Cell} (h : c ∈ imageFrom a ws) : a ≤ c.1 ∧ c.1 < a + ws.length := by
  induction ws generalizing a with
  | nil => simp [imageFrom] at h
  | cons w ws ih =>
    rcases List.mem_append.mp h with h | h
    · unfold cellsFor at h
      split at h <;> simp_all
    · have := ih h
      simp only [List.length_cons]
      omega

/-- An image that fits in memory is canonical. -/
theorem imageFrom_wf {ws : List Nat} {a : Nat} (h : a + ws.length ≤ memWords) : (imageFrom a ws).wf = true := by
  induction ws generalizing a with
  | nil => rfl
  | cons w ws ih =>
    simp only [List.length_cons] at h
    refine Memory.wf_cellsFor (by omega) (fun c hc => ?_) (ih (by omega))
    have := imageFrom_range hc
    omega

/-- What an image reads as: its words in its range, and unlisted elsewhere. -/
theorem imageFrom_read (ws : List Nat) (a b : Nat) :
    (imageFrom a ws).read b =
      if a ≤ b ∧ b < a + ws.length then BitVec.ofNat 16 (ws.getD (b - a) 0) else unlistedWord := by
  induction ws generalizing a with
  | nil => simp [imageFrom]
  | cons w ws ih =>
    rw [imageFrom, Memory.read_cellsFor _ _ _ _ (fun c hc => by have := imageFrom_range hc; omega), ih]
    by_cases hb : b = a
    · simp [hb]
    · rcases Nat.lt_or_ge b a with hlt | hge
      · have h1 : ¬ a ≤ b := by omega
        have h2 : ¬ a + 1 ≤ b := by omega
        simp [hb, h1, h2]
      · obtain ⟨k, rfl⟩ : ∃ k, b = a + 1 + k := ⟨b - a - 1, by omega⟩
        have h1 : a + 1 + k - a = k + 1 := by omega
        have h2 : a + 1 + k - (a + 1) = k := by omega
        simp only [hb, if_false, List.length_cons, h1, h2, List.getD_cons_succ]
        congr 1
        simp only [eq_iff_iff]
        omega

/-- The power-on memory is canonical. -/
theorem reset_mem_wf : State.reset.mem.wf = true := rfl

/-- A memory micro-op or host write keeps the canonical form. -/
theorem State.writeMem_wf {s : State} (h : s.mem.wf = true) (a : Addr) (w : Word) : (s.writeMem a w).mem.wf = true :=
  Memory.wf_write h a.isLt

@[simp] theorem State.writeMem_mem (s : State) (a : Addr) (w : Word) : (s.writeMem a w).mem = s.mem.write a.toNat w := rfl

/-- Reading a memory word after a write of one. -/
theorem State.readMem_writeMem {s : State} (h : s.mem.wf = true) (a b : Addr) (w : Word) :
    (s.writeMem a w).readMem b = if b = a then w else s.readMem b := by
  simp only [State.readMem, State.writeMem_mem, Memory.read_write h, BitVec.toNat_inj]

end Sys2Proof.Machine
end

