-- ==== Sys2Proof/Laws/State.lean ====
section
/-! SUPPORT. One lemma per field per field write: the written field reads as the value, every other as before. -/

namespace Sys2Proof.Machine

@[simp] theorem State.setAC_ac (s : State) (v : Word) : (s.setAC v).ac = v := rfl
@[simp] theorem State.setAC_ir (s : State) (v : Word) : (s.setAC v).ir = s.ir := rfl
@[simp] theorem State.setAC_mbr (s : State) (v : Word) : (s.setAC v).mbr = s.mbr := rfl
@[simp] theorem State.setAC_pc (s : State) (v : Word) : (s.setAC v).pc = s.pc := rfl
@[simp] theorem State.setAC_mar (s : State) (v : Word) : (s.setAC v).mar = s.mar := rfl
@[simp] theorem State.setAC_inReg (s : State) (v : Word) : (s.setAC v).inReg = s.inReg := rfl
@[simp] theorem State.setAC_outReg (s : State) (v : Word) : (s.setAC v).outReg = s.outReg := rfl
@[simp] theorem State.setAC_mem (s : State) (v : Word) : (s.setAC v).mem = s.mem := rfl
@[simp] theorem State.setAC_halted (s : State) (v : Word) : (s.setAC v).halted = s.halted := rfl
@[simp] theorem State.setAC_upc (s : State) (v : Word) : (s.setAC v).upc = s.upc := rfl
@[simp] theorem State.setAC_dec (s : State) (v : Word) : (s.setAC v).dec = s.dec := rfl
@[simp] theorem State.setAC_cmp (s : State) (v : Word) : (s.setAC v).cmp = s.cmp := rfl
@[simp] theorem State.setAC_intr (s : State) (v : Word) : (s.setAC v).intr = s.intr := rfl
@[simp] theorem State.setAC_fault (s : State) (v : Word) : (s.setAC v).fault = s.fault := rfl
@[simp] theorem State.setAC_origin (s : State) (v : Word) : (s.setAC v).origin = s.origin := rfl
@[simp] theorem State.setAC_inputs (s : State) (v : Word) : (s.setAC v).inputs = s.inputs := rfl
@[simp] theorem State.setAC_outputs (s : State) (v : Word) : (s.setAC v).outputs = s.outputs := rfl
@[simp] theorem State.setAC_cfg (s : State) (v : Word) : (s.setAC v).cfg = s.cfg := rfl

@[simp] theorem State.setIR_ac (s : State) (v : Word) : (s.setIR v).ac = s.ac := rfl
@[simp] theorem State.setIR_ir (s : State) (v : Word) : (s.setIR v).ir = v := rfl
@[simp] theorem State.setIR_mbr (s : State) (v : Word) : (s.setIR v).mbr = s.mbr := rfl
@[simp] theorem State.setIR_pc (s : State) (v : Word) : (s.setIR v).pc = s.pc := rfl
@[simp] theorem State.setIR_mar (s : State) (v : Word) : (s.setIR v).mar = s.mar := rfl
@[simp] theorem State.setIR_inReg (s : State) (v : Word) : (s.setIR v).inReg = s.inReg := rfl
@[simp] theorem State.setIR_outReg (s : State) (v : Word) : (s.setIR v).outReg = s.outReg := rfl
@[simp] theorem State.setIR_mem (s : State) (v : Word) : (s.setIR v).mem = s.mem := rfl
@[simp] theorem State.setIR_halted (s : State) (v : Word) : (s.setIR v).halted = s.halted := rfl
@[simp] theorem State.setIR_upc (s : State) (v : Word) : (s.setIR v).upc = s.upc := rfl
@[simp] theorem State.setIR_dec (s : State) (v : Word) : (s.setIR v).dec = s.dec := rfl
@[simp] theorem State.setIR_cmp (s : State) (v : Word) : (s.setIR v).cmp = s.cmp := rfl
@[simp] theorem State.setIR_intr (s : State) (v : Word) : (s.setIR v).intr = s.intr := rfl
@[simp] theorem State.setIR_fault (s : State) (v : Word) : (s.setIR v).fault = s.fault := rfl
@[simp] theorem State.setIR_origin (s : State) (v : Word) : (s.setIR v).origin = s.origin := rfl
@[simp] theorem State.setIR_inputs (s : State) (v : Word) : (s.setIR v).inputs = s.inputs := rfl
@[simp] theorem State.setIR_outputs (s : State) (v : Word) : (s.setIR v).outputs = s.outputs := rfl
@[simp] theorem State.setIR_cfg (s : State) (v : Word) : (s.setIR v).cfg = s.cfg := rfl

@[simp] theorem State.setMBR_ac (s : State) (v : Word) : (s.setMBR v).ac = s.ac := rfl
@[simp] theorem State.setMBR_ir (s : State) (v : Word) : (s.setMBR v).ir = s.ir := rfl
@[simp] theorem State.setMBR_mbr (s : State) (v : Word) : (s.setMBR v).mbr = v := rfl
@[simp] theorem State.setMBR_pc (s : State) (v : Word) : (s.setMBR v).pc = s.pc := rfl
@[simp] theorem State.setMBR_mar (s : State) (v : Word) : (s.setMBR v).mar = s.mar := rfl
@[simp] theorem State.setMBR_inReg (s : State) (v : Word) : (s.setMBR v).inReg = s.inReg := rfl
@[simp] theorem State.setMBR_outReg (s : State) (v : Word) : (s.setMBR v).outReg = s.outReg := rfl
@[simp] theorem State.setMBR_mem (s : State) (v : Word) : (s.setMBR v).mem = s.mem := rfl
@[simp] theorem State.setMBR_halted (s : State) (v : Word) : (s.setMBR v).halted = s.halted := rfl
@[simp] theorem State.setMBR_upc (s : State) (v : Word) : (s.setMBR v).upc = s.upc := rfl
@[simp] theorem State.setMBR_dec (s : State) (v : Word) : (s.setMBR v).dec = s.dec := rfl
@[simp] theorem State.setMBR_cmp (s : State) (v : Word) : (s.setMBR v).cmp = s.cmp := rfl
@[simp] theorem State.setMBR_intr (s : State) (v : Word) : (s.setMBR v).intr = s.intr := rfl
@[simp] theorem State.setMBR_fault (s : State) (v : Word) : (s.setMBR v).fault = s.fault := rfl
@[simp] theorem State.setMBR_origin (s : State) (v : Word) : (s.setMBR v).origin = s.origin := rfl
@[simp] theorem State.setMBR_inputs (s : State) (v : Word) : (s.setMBR v).inputs = s.inputs := rfl
@[simp] theorem State.setMBR_outputs (s : State) (v : Word) : (s.setMBR v).outputs = s.outputs := rfl
@[simp] theorem State.setMBR_cfg (s : State) (v : Word) : (s.setMBR v).cfg = s.cfg := rfl

@[simp] theorem State.setPC_ac (s : State) (v : Addr) : (s.setPC v).ac = s.ac := rfl
@[simp] theorem State.setPC_ir (s : State) (v : Addr) : (s.setPC v).ir = s.ir := rfl
@[simp] theorem State.setPC_mbr (s : State) (v : Addr) : (s.setPC v).mbr = s.mbr := rfl
@[simp] theorem State.setPC_pc (s : State) (v : Addr) : (s.setPC v).pc = v := rfl
@[simp] theorem State.setPC_mar (s : State) (v : Addr) : (s.setPC v).mar = s.mar := rfl
@[simp] theorem State.setPC_inReg (s : State) (v : Addr) : (s.setPC v).inReg = s.inReg := rfl
@[simp] theorem State.setPC_outReg (s : State) (v : Addr) : (s.setPC v).outReg = s.outReg := rfl
@[simp] theorem State.setPC_mem (s : State) (v : Addr) : (s.setPC v).mem = s.mem := rfl
@[simp] theorem State.setPC_halted (s : State) (v : Addr) : (s.setPC v).halted = s.halted := rfl
@[simp] theorem State.setPC_upc (s : State) (v : Addr) : (s.setPC v).upc = s.upc := rfl
@[simp] theorem State.setPC_dec (s : State) (v : Addr) : (s.setPC v).dec = s.dec := rfl
@[simp] theorem State.setPC_cmp (s : State) (v : Addr) : (s.setPC v).cmp = s.cmp := rfl
@[simp] theorem State.setPC_intr (s : State) (v : Addr) : (s.setPC v).intr = s.intr := rfl
@[simp] theorem State.setPC_fault (s : State) (v : Addr) : (s.setPC v).fault = s.fault := rfl
@[simp] theorem State.setPC_origin (s : State) (v : Addr) : (s.setPC v).origin = s.origin := rfl
@[simp] theorem State.setPC_inputs (s : State) (v : Addr) : (s.setPC v).inputs = s.inputs := rfl
@[simp] theorem State.setPC_outputs (s : State) (v : Addr) : (s.setPC v).outputs = s.outputs := rfl
@[simp] theorem State.setPC_cfg (s : State) (v : Addr) : (s.setPC v).cfg = s.cfg := rfl

@[simp] theorem State.setMAR_ac (s : State) (v : Addr) : (s.setMAR v).ac = s.ac := rfl
@[simp] theorem State.setMAR_ir (s : State) (v : Addr) : (s.setMAR v).ir = s.ir := rfl
@[simp] theorem State.setMAR_mbr (s : State) (v : Addr) : (s.setMAR v).mbr = s.mbr := rfl
@[simp] theorem State.setMAR_pc (s : State) (v : Addr) : (s.setMAR v).pc = s.pc := rfl
@[simp] theorem State.setMAR_mar (s : State) (v : Addr) : (s.setMAR v).mar = v := rfl
@[simp] theorem State.setMAR_inReg (s : State) (v : Addr) : (s.setMAR v).inReg = s.inReg := rfl
@[simp] theorem State.setMAR_outReg (s : State) (v : Addr) : (s.setMAR v).outReg = s.outReg := rfl
@[simp] theorem State.setMAR_mem (s : State) (v : Addr) : (s.setMAR v).mem = s.mem := rfl
@[simp] theorem State.setMAR_halted (s : State) (v : Addr) : (s.setMAR v).halted = s.halted := rfl
@[simp] theorem State.setMAR_upc (s : State) (v : Addr) : (s.setMAR v).upc = s.upc := rfl
@[simp] theorem State.setMAR_dec (s : State) (v : Addr) : (s.setMAR v).dec = s.dec := rfl
@[simp] theorem State.setMAR_cmp (s : State) (v : Addr) : (s.setMAR v).cmp = s.cmp := rfl
@[simp] theorem State.setMAR_intr (s : State) (v : Addr) : (s.setMAR v).intr = s.intr := rfl
@[simp] theorem State.setMAR_fault (s : State) (v : Addr) : (s.setMAR v).fault = s.fault := rfl
@[simp] theorem State.setMAR_origin (s : State) (v : Addr) : (s.setMAR v).origin = s.origin := rfl
@[simp] theorem State.setMAR_inputs (s : State) (v : Addr) : (s.setMAR v).inputs = s.inputs := rfl
@[simp] theorem State.setMAR_outputs (s : State) (v : Addr) : (s.setMAR v).outputs = s.outputs := rfl
@[simp] theorem State.setMAR_cfg (s : State) (v : Addr) : (s.setMAR v).cfg = s.cfg := rfl

@[simp] theorem State.setIN_ac (s : State) (v : Word) : (s.setIN v).ac = s.ac := rfl
@[simp] theorem State.setIN_ir (s : State) (v : Word) : (s.setIN v).ir = s.ir := rfl
@[simp] theorem State.setIN_mbr (s : State) (v : Word) : (s.setIN v).mbr = s.mbr := rfl
@[simp] theorem State.setIN_pc (s : State) (v : Word) : (s.setIN v).pc = s.pc := rfl
@[simp] theorem State.setIN_mar (s : State) (v : Word) : (s.setIN v).mar = s.mar := rfl
@[simp] theorem State.setIN_inReg (s : State) (v : Word) : (s.setIN v).inReg = v := rfl
@[simp] theorem State.setIN_outReg (s : State) (v : Word) : (s.setIN v).outReg = s.outReg := rfl
@[simp] theorem State.setIN_mem (s : State) (v : Word) : (s.setIN v).mem = s.mem := rfl
@[simp] theorem State.setIN_halted (s : State) (v : Word) : (s.setIN v).halted = s.halted := rfl
@[simp] theorem State.setIN_upc (s : State) (v : Word) : (s.setIN v).upc = s.upc := rfl
@[simp] theorem State.setIN_dec (s : State) (v : Word) : (s.setIN v).dec = s.dec := rfl
@[simp] theorem State.setIN_cmp (s : State) (v : Word) : (s.setIN v).cmp = s.cmp := rfl
@[simp] theorem State.setIN_intr (s : State) (v : Word) : (s.setIN v).intr = s.intr := rfl
@[simp] theorem State.setIN_fault (s : State) (v : Word) : (s.setIN v).fault = s.fault := rfl
@[simp] theorem State.setIN_origin (s : State) (v : Word) : (s.setIN v).origin = s.origin := rfl
@[simp] theorem State.setIN_inputs (s : State) (v : Word) : (s.setIN v).inputs = s.inputs := rfl
@[simp] theorem State.setIN_outputs (s : State) (v : Word) : (s.setIN v).outputs = s.outputs := rfl
@[simp] theorem State.setIN_cfg (s : State) (v : Word) : (s.setIN v).cfg = s.cfg := rfl

@[simp] theorem State.setOUT_ac (s : State) (v : Word) : (s.setOUT v).ac = s.ac := rfl
@[simp] theorem State.setOUT_ir (s : State) (v : Word) : (s.setOUT v).ir = s.ir := rfl
@[simp] theorem State.setOUT_mbr (s : State) (v : Word) : (s.setOUT v).mbr = s.mbr := rfl
@[simp] theorem State.setOUT_pc (s : State) (v : Word) : (s.setOUT v).pc = s.pc := rfl
@[simp] theorem State.setOUT_mar (s : State) (v : Word) : (s.setOUT v).mar = s.mar := rfl
@[simp] theorem State.setOUT_inReg (s : State) (v : Word) : (s.setOUT v).inReg = s.inReg := rfl
@[simp] theorem State.setOUT_outReg (s : State) (v : Word) : (s.setOUT v).outReg = v := rfl
@[simp] theorem State.setOUT_mem (s : State) (v : Word) : (s.setOUT v).mem = s.mem := rfl
@[simp] theorem State.setOUT_halted (s : State) (v : Word) : (s.setOUT v).halted = s.halted := rfl
@[simp] theorem State.setOUT_upc (s : State) (v : Word) : (s.setOUT v).upc = s.upc := rfl
@[simp] theorem State.setOUT_dec (s : State) (v : Word) : (s.setOUT v).dec = s.dec := rfl
@[simp] theorem State.setOUT_cmp (s : State) (v : Word) : (s.setOUT v).cmp = s.cmp := rfl
@[simp] theorem State.setOUT_intr (s : State) (v : Word) : (s.setOUT v).intr = s.intr := rfl
@[simp] theorem State.setOUT_fault (s : State) (v : Word) : (s.setOUT v).fault = s.fault := rfl
@[simp] theorem State.setOUT_origin (s : State) (v : Word) : (s.setOUT v).origin = s.origin := rfl
@[simp] theorem State.setOUT_inputs (s : State) (v : Word) : (s.setOUT v).inputs = s.inputs := rfl
@[simp] theorem State.setOUT_outputs (s : State) (v : Word) : (s.setOUT v).outputs = s.outputs := rfl
@[simp] theorem State.setOUT_cfg (s : State) (v : Word) : (s.setOUT v).cfg = s.cfg := rfl

@[simp] theorem State.setMem_ac (s : State) (v : Memory) : (s.setMem v).ac = s.ac := rfl
@[simp] theorem State.setMem_ir (s : State) (v : Memory) : (s.setMem v).ir = s.ir := rfl
@[simp] theorem State.setMem_mbr (s : State) (v : Memory) : (s.setMem v).mbr = s.mbr := rfl
@[simp] theorem State.setMem_pc (s : State) (v : Memory) : (s.setMem v).pc = s.pc := rfl
@[simp] theorem State.setMem_mar (s : State) (v : Memory) : (s.setMem v).mar = s.mar := rfl
@[simp] theorem State.setMem_inReg (s : State) (v : Memory) : (s.setMem v).inReg = s.inReg := rfl
@[simp] theorem State.setMem_outReg (s : State) (v : Memory) : (s.setMem v).outReg = s.outReg := rfl
@[simp] theorem State.setMem_mem (s : State) (v : Memory) : (s.setMem v).mem = v := rfl
@[simp] theorem State.setMem_halted (s : State) (v : Memory) : (s.setMem v).halted = s.halted := rfl
@[simp] theorem State.setMem_upc (s : State) (v : Memory) : (s.setMem v).upc = s.upc := rfl
@[simp] theorem State.setMem_dec (s : State) (v : Memory) : (s.setMem v).dec = s.dec := rfl
@[simp] theorem State.setMem_cmp (s : State) (v : Memory) : (s.setMem v).cmp = s.cmp := rfl
@[simp] theorem State.setMem_intr (s : State) (v : Memory) : (s.setMem v).intr = s.intr := rfl
@[simp] theorem State.setMem_fault (s : State) (v : Memory) : (s.setMem v).fault = s.fault := rfl
@[simp] theorem State.setMem_origin (s : State) (v : Memory) : (s.setMem v).origin = s.origin := rfl
@[simp] theorem State.setMem_inputs (s : State) (v : Memory) : (s.setMem v).inputs = s.inputs := rfl
@[simp] theorem State.setMem_outputs (s : State) (v : Memory) : (s.setMem v).outputs = s.outputs := rfl
@[simp] theorem State.setMem_cfg (s : State) (v : Memory) : (s.setMem v).cfg = s.cfg := rfl

@[simp] theorem State.setHalted_ac (s : State) (v : Bool) : (s.setHalted v).ac = s.ac := rfl
@[simp] theorem State.setHalted_ir (s : State) (v : Bool) : (s.setHalted v).ir = s.ir := rfl
@[simp] theorem State.setHalted_mbr (s : State) (v : Bool) : (s.setHalted v).mbr = s.mbr := rfl
@[simp] theorem State.setHalted_pc (s : State) (v : Bool) : (s.setHalted v).pc = s.pc := rfl
@[simp] theorem State.setHalted_mar (s : State) (v : Bool) : (s.setHalted v).mar = s.mar := rfl
@[simp] theorem State.setHalted_inReg (s : State) (v : Bool) : (s.setHalted v).inReg = s.inReg := rfl
@[simp] theorem State.setHalted_outReg (s : State) (v : Bool) : (s.setHalted v).outReg = s.outReg := rfl
@[simp] theorem State.setHalted_mem (s : State) (v : Bool) : (s.setHalted v).mem = s.mem := rfl
@[simp] theorem State.setHalted_halted (s : State) (v : Bool) : (s.setHalted v).halted = v := rfl
@[simp] theorem State.setHalted_upc (s : State) (v : Bool) : (s.setHalted v).upc = s.upc := rfl
@[simp] theorem State.setHalted_dec (s : State) (v : Bool) : (s.setHalted v).dec = s.dec := rfl
@[simp] theorem State.setHalted_cmp (s : State) (v : Bool) : (s.setHalted v).cmp = s.cmp := rfl
@[simp] theorem State.setHalted_intr (s : State) (v : Bool) : (s.setHalted v).intr = s.intr := rfl
@[simp] theorem State.setHalted_fault (s : State) (v : Bool) : (s.setHalted v).fault = s.fault := rfl
@[simp] theorem State.setHalted_origin (s : State) (v : Bool) : (s.setHalted v).origin = s.origin := rfl
@[simp] theorem State.setHalted_inputs (s : State) (v : Bool) : (s.setHalted v).inputs = s.inputs := rfl
@[simp] theorem State.setHalted_outputs (s : State) (v : Bool) : (s.setHalted v).outputs = s.outputs := rfl
@[simp] theorem State.setHalted_cfg (s : State) (v : Bool) : (s.setHalted v).cfg = s.cfg := rfl

@[simp] theorem State.setUpc_ac (s : State) (v : BitVec 4) : (s.setUpc v).ac = s.ac := rfl
@[simp] theorem State.setUpc_ir (s : State) (v : BitVec 4) : (s.setUpc v).ir = s.ir := rfl
@[simp] theorem State.setUpc_mbr (s : State) (v : BitVec 4) : (s.setUpc v).mbr = s.mbr := rfl
@[simp] theorem State.setUpc_pc (s : State) (v : BitVec 4) : (s.setUpc v).pc = s.pc := rfl
@[simp] theorem State.setUpc_mar (s : State) (v : BitVec 4) : (s.setUpc v).mar = s.mar := rfl
@[simp] theorem State.setUpc_inReg (s : State) (v : BitVec 4) : (s.setUpc v).inReg = s.inReg := rfl
@[simp] theorem State.setUpc_outReg (s : State) (v : BitVec 4) : (s.setUpc v).outReg = s.outReg := rfl
@[simp] theorem State.setUpc_mem (s : State) (v : BitVec 4) : (s.setUpc v).mem = s.mem := rfl
@[simp] theorem State.setUpc_halted (s : State) (v : BitVec 4) : (s.setUpc v).halted = s.halted := rfl
@[simp] theorem State.setUpc_upc (s : State) (v : BitVec 4) : (s.setUpc v).upc = v := rfl
@[simp] theorem State.setUpc_dec (s : State) (v : BitVec 4) : (s.setUpc v).dec = s.dec := rfl
@[simp] theorem State.setUpc_cmp (s : State) (v : BitVec 4) : (s.setUpc v).cmp = s.cmp := rfl
@[simp] theorem State.setUpc_intr (s : State) (v : BitVec 4) : (s.setUpc v).intr = s.intr := rfl
@[simp] theorem State.setUpc_fault (s : State) (v : BitVec 4) : (s.setUpc v).fault = s.fault := rfl
@[simp] theorem State.setUpc_origin (s : State) (v : BitVec 4) : (s.setUpc v).origin = s.origin := rfl
@[simp] theorem State.setUpc_inputs (s : State) (v : BitVec 4) : (s.setUpc v).inputs = s.inputs := rfl
@[simp] theorem State.setUpc_outputs (s : State) (v : BitVec 4) : (s.setUpc v).outputs = s.outputs := rfl
@[simp] theorem State.setUpc_cfg (s : State) (v : BitVec 4) : (s.setUpc v).cfg = s.cfg := rfl

@[simp] theorem State.setDec_ac (s : State) (v : Option Opcode) : (s.setDec v).ac = s.ac := rfl
@[simp] theorem State.setDec_ir (s : State) (v : Option Opcode) : (s.setDec v).ir = s.ir := rfl
@[simp] theorem State.setDec_mbr (s : State) (v : Option Opcode) : (s.setDec v).mbr = s.mbr := rfl
@[simp] theorem State.setDec_pc (s : State) (v : Option Opcode) : (s.setDec v).pc = s.pc := rfl
@[simp] theorem State.setDec_mar (s : State) (v : Option Opcode) : (s.setDec v).mar = s.mar := rfl
@[simp] theorem State.setDec_inReg (s : State) (v : Option Opcode) : (s.setDec v).inReg = s.inReg := rfl
@[simp] theorem State.setDec_outReg (s : State) (v : Option Opcode) : (s.setDec v).outReg = s.outReg := rfl
@[simp] theorem State.setDec_mem (s : State) (v : Option Opcode) : (s.setDec v).mem = s.mem := rfl
@[simp] theorem State.setDec_halted (s : State) (v : Option Opcode) : (s.setDec v).halted = s.halted := rfl
@[simp] theorem State.setDec_upc (s : State) (v : Option Opcode) : (s.setDec v).upc = s.upc := rfl
@[simp] theorem State.setDec_dec (s : State) (v : Option Opcode) : (s.setDec v).dec = v := rfl
@[simp] theorem State.setDec_cmp (s : State) (v : Option Opcode) : (s.setDec v).cmp = s.cmp := rfl
@[simp] theorem State.setDec_intr (s : State) (v : Option Opcode) : (s.setDec v).intr = s.intr := rfl
@[simp] theorem State.setDec_fault (s : State) (v : Option Opcode) : (s.setDec v).fault = s.fault := rfl
@[simp] theorem State.setDec_origin (s : State) (v : Option Opcode) : (s.setDec v).origin = s.origin := rfl
@[simp] theorem State.setDec_inputs (s : State) (v : Option Opcode) : (s.setDec v).inputs = s.inputs := rfl
@[simp] theorem State.setDec_outputs (s : State) (v : Option Opcode) : (s.setDec v).outputs = s.outputs := rfl
@[simp] theorem State.setDec_cfg (s : State) (v : Option Opcode) : (s.setDec v).cfg = s.cfg := rfl

@[simp] theorem State.setCmp_ac (s : State) (v : Bool) : (s.setCmp v).ac = s.ac := rfl
@[simp] theorem State.setCmp_ir (s : State) (v : Bool) : (s.setCmp v).ir = s.ir := rfl
@[simp] theorem State.setCmp_mbr (s : State) (v : Bool) : (s.setCmp v).mbr = s.mbr := rfl
@[simp] theorem State.setCmp_pc (s : State) (v : Bool) : (s.setCmp v).pc = s.pc := rfl
@[simp] theorem State.setCmp_mar (s : State) (v : Bool) : (s.setCmp v).mar = s.mar := rfl
@[simp] theorem State.setCmp_inReg (s : State) (v : Bool) : (s.setCmp v).inReg = s.inReg := rfl
@[simp] theorem State.setCmp_outReg (s : State) (v : Bool) : (s.setCmp v).outReg = s.outReg := rfl
@[simp] theorem State.setCmp_mem (s : State) (v : Bool) : (s.setCmp v).mem = s.mem := rfl
@[simp] theorem State.setCmp_halted (s : State) (v : Bool) : (s.setCmp v).halted = s.halted := rfl
@[simp] theorem State.setCmp_upc (s : State) (v : Bool) : (s.setCmp v).upc = s.upc := rfl
@[simp] theorem State.setCmp_dec (s : State) (v : Bool) : (s.setCmp v).dec = s.dec := rfl
@[simp] theorem State.setCmp_cmp (s : State) (v : Bool) : (s.setCmp v).cmp = v := rfl
@[simp] theorem State.setCmp_intr (s : State) (v : Bool) : (s.setCmp v).intr = s.intr := rfl
@[simp] theorem State.setCmp_fault (s : State) (v : Bool) : (s.setCmp v).fault = s.fault := rfl
@[simp] theorem State.setCmp_origin (s : State) (v : Bool) : (s.setCmp v).origin = s.origin := rfl
@[simp] theorem State.setCmp_inputs (s : State) (v : Bool) : (s.setCmp v).inputs = s.inputs := rfl
@[simp] theorem State.setCmp_outputs (s : State) (v : Bool) : (s.setCmp v).outputs = s.outputs := rfl
@[simp] theorem State.setCmp_cfg (s : State) (v : Bool) : (s.setCmp v).cfg = s.cfg := rfl

@[simp] theorem State.setIntr_ac (s : State) (v : Intr) : (s.setIntr v).ac = s.ac := rfl
@[simp] theorem State.setIntr_ir (s : State) (v : Intr) : (s.setIntr v).ir = s.ir := rfl
@[simp] theorem State.setIntr_mbr (s : State) (v : Intr) : (s.setIntr v).mbr = s.mbr := rfl
@[simp] theorem State.setIntr_pc (s : State) (v : Intr) : (s.setIntr v).pc = s.pc := rfl
@[simp] theorem State.setIntr_mar (s : State) (v : Intr) : (s.setIntr v).mar = s.mar := rfl
@[simp] theorem State.setIntr_inReg (s : State) (v : Intr) : (s.setIntr v).inReg = s.inReg := rfl
@[simp] theorem State.setIntr_outReg (s : State) (v : Intr) : (s.setIntr v).outReg = s.outReg := rfl
@[simp] theorem State.setIntr_mem (s : State) (v : Intr) : (s.setIntr v).mem = s.mem := rfl
@[simp] theorem State.setIntr_halted (s : State) (v : Intr) : (s.setIntr v).halted = s.halted := rfl
@[simp] theorem State.setIntr_upc (s : State) (v : Intr) : (s.setIntr v).upc = s.upc := rfl
@[simp] theorem State.setIntr_dec (s : State) (v : Intr) : (s.setIntr v).dec = s.dec := rfl
@[simp] theorem State.setIntr_cmp (s : State) (v : Intr) : (s.setIntr v).cmp = s.cmp := rfl
@[simp] theorem State.setIntr_intr (s : State) (v : Intr) : (s.setIntr v).intr = v := rfl
@[simp] theorem State.setIntr_fault (s : State) (v : Intr) : (s.setIntr v).fault = s.fault := rfl
@[simp] theorem State.setIntr_origin (s : State) (v : Intr) : (s.setIntr v).origin = s.origin := rfl
@[simp] theorem State.setIntr_inputs (s : State) (v : Intr) : (s.setIntr v).inputs = s.inputs := rfl
@[simp] theorem State.setIntr_outputs (s : State) (v : Intr) : (s.setIntr v).outputs = s.outputs := rfl
@[simp] theorem State.setIntr_cfg (s : State) (v : Intr) : (s.setIntr v).cfg = s.cfg := rfl

@[simp] theorem State.setFault_ac (s : State) (v : FaultCode) : (s.setFault v).ac = s.ac := rfl
@[simp] theorem State.setFault_ir (s : State) (v : FaultCode) : (s.setFault v).ir = s.ir := rfl
@[simp] theorem State.setFault_mbr (s : State) (v : FaultCode) : (s.setFault v).mbr = s.mbr := rfl
@[simp] theorem State.setFault_pc (s : State) (v : FaultCode) : (s.setFault v).pc = s.pc := rfl
@[simp] theorem State.setFault_mar (s : State) (v : FaultCode) : (s.setFault v).mar = s.mar := rfl
@[simp] theorem State.setFault_inReg (s : State) (v : FaultCode) : (s.setFault v).inReg = s.inReg := rfl
@[simp] theorem State.setFault_outReg (s : State) (v : FaultCode) : (s.setFault v).outReg = s.outReg := rfl
@[simp] theorem State.setFault_mem (s : State) (v : FaultCode) : (s.setFault v).mem = s.mem := rfl
@[simp] theorem State.setFault_halted (s : State) (v : FaultCode) : (s.setFault v).halted = s.halted := rfl
@[simp] theorem State.setFault_upc (s : State) (v : FaultCode) : (s.setFault v).upc = s.upc := rfl
@[simp] theorem State.setFault_dec (s : State) (v : FaultCode) : (s.setFault v).dec = s.dec := rfl
@[simp] theorem State.setFault_cmp (s : State) (v : FaultCode) : (s.setFault v).cmp = s.cmp := rfl
@[simp] theorem State.setFault_intr (s : State) (v : FaultCode) : (s.setFault v).intr = s.intr := rfl
@[simp] theorem State.setFault_fault (s : State) (v : FaultCode) : (s.setFault v).fault = v := rfl
@[simp] theorem State.setFault_origin (s : State) (v : FaultCode) : (s.setFault v).origin = s.origin := rfl
@[simp] theorem State.setFault_inputs (s : State) (v : FaultCode) : (s.setFault v).inputs = s.inputs := rfl
@[simp] theorem State.setFault_outputs (s : State) (v : FaultCode) : (s.setFault v).outputs = s.outputs := rfl
@[simp] theorem State.setFault_cfg (s : State) (v : FaultCode) : (s.setFault v).cfg = s.cfg := rfl

@[simp] theorem State.setOrigin_ac (s : State) (v : Addr) : (s.setOrigin v).ac = s.ac := rfl
@[simp] theorem State.setOrigin_ir (s : State) (v : Addr) : (s.setOrigin v).ir = s.ir := rfl
@[simp] theorem State.setOrigin_mbr (s : State) (v : Addr) : (s.setOrigin v).mbr = s.mbr := rfl
@[simp] theorem State.setOrigin_pc (s : State) (v : Addr) : (s.setOrigin v).pc = s.pc := rfl
@[simp] theorem State.setOrigin_mar (s : State) (v : Addr) : (s.setOrigin v).mar = s.mar := rfl
@[simp] theorem State.setOrigin_inReg (s : State) (v : Addr) : (s.setOrigin v).inReg = s.inReg := rfl
@[simp] theorem State.setOrigin_outReg (s : State) (v : Addr) : (s.setOrigin v).outReg = s.outReg := rfl
@[simp] theorem State.setOrigin_mem (s : State) (v : Addr) : (s.setOrigin v).mem = s.mem := rfl
@[simp] theorem State.setOrigin_halted (s : State) (v : Addr) : (s.setOrigin v).halted = s.halted := rfl
@[simp] theorem State.setOrigin_upc (s : State) (v : Addr) : (s.setOrigin v).upc = s.upc := rfl
@[simp] theorem State.setOrigin_dec (s : State) (v : Addr) : (s.setOrigin v).dec = s.dec := rfl
@[simp] theorem State.setOrigin_cmp (s : State) (v : Addr) : (s.setOrigin v).cmp = s.cmp := rfl
@[simp] theorem State.setOrigin_intr (s : State) (v : Addr) : (s.setOrigin v).intr = s.intr := rfl
@[simp] theorem State.setOrigin_fault (s : State) (v : Addr) : (s.setOrigin v).fault = s.fault := rfl
@[simp] theorem State.setOrigin_origin (s : State) (v : Addr) : (s.setOrigin v).origin = v := rfl
@[simp] theorem State.setOrigin_inputs (s : State) (v : Addr) : (s.setOrigin v).inputs = s.inputs := rfl
@[simp] theorem State.setOrigin_outputs (s : State) (v : Addr) : (s.setOrigin v).outputs = s.outputs := rfl
@[simp] theorem State.setOrigin_cfg (s : State) (v : Addr) : (s.setOrigin v).cfg = s.cfg := rfl

@[simp] theorem State.setInputs_ac (s : State) (v : List (Option Int)) : (s.setInputs v).ac = s.ac := rfl
@[simp] theorem State.setInputs_ir (s : State) (v : List (Option Int)) : (s.setInputs v).ir = s.ir := rfl
@[simp] theorem State.setInputs_mbr (s : State) (v : List (Option Int)) : (s.setInputs v).mbr = s.mbr := rfl
@[simp] theorem State.setInputs_pc (s : State) (v : List (Option Int)) : (s.setInputs v).pc = s.pc := rfl
@[simp] theorem State.setInputs_mar (s : State) (v : List (Option Int)) : (s.setInputs v).mar = s.mar := rfl
@[simp] theorem State.setInputs_inReg (s : State) (v : List (Option Int)) : (s.setInputs v).inReg = s.inReg := rfl
@[simp] theorem State.setInputs_outReg (s : State) (v : List (Option Int)) : (s.setInputs v).outReg = s.outReg := rfl
@[simp] theorem State.setInputs_mem (s : State) (v : List (Option Int)) : (s.setInputs v).mem = s.mem := rfl
@[simp] theorem State.setInputs_halted (s : State) (v : List (Option Int)) : (s.setInputs v).halted = s.halted := rfl
@[simp] theorem State.setInputs_upc (s : State) (v : List (Option Int)) : (s.setInputs v).upc = s.upc := rfl
@[simp] theorem State.setInputs_dec (s : State) (v : List (Option Int)) : (s.setInputs v).dec = s.dec := rfl
@[simp] theorem State.setInputs_cmp (s : State) (v : List (Option Int)) : (s.setInputs v).cmp = s.cmp := rfl
@[simp] theorem State.setInputs_intr (s : State) (v : List (Option Int)) : (s.setInputs v).intr = s.intr := rfl
@[simp] theorem State.setInputs_fault (s : State) (v : List (Option Int)) : (s.setInputs v).fault = s.fault := rfl
@[simp] theorem State.setInputs_origin (s : State) (v : List (Option Int)) : (s.setInputs v).origin = s.origin := rfl
@[simp] theorem State.setInputs_inputs (s : State) (v : List (Option Int)) : (s.setInputs v).inputs = v := rfl
@[simp] theorem State.setInputs_outputs (s : State) (v : List (Option Int)) : (s.setInputs v).outputs = s.outputs := rfl
@[simp] theorem State.setInputs_cfg (s : State) (v : List (Option Int)) : (s.setInputs v).cfg = s.cfg := rfl

@[simp] theorem State.setOutputs_ac (s : State) (v : List Word) : (s.setOutputs v).ac = s.ac := rfl
@[simp] theorem State.setOutputs_ir (s : State) (v : List Word) : (s.setOutputs v).ir = s.ir := rfl
@[simp] theorem State.setOutputs_mbr (s : State) (v : List Word) : (s.setOutputs v).mbr = s.mbr := rfl
@[simp] theorem State.setOutputs_pc (s : State) (v : List Word) : (s.setOutputs v).pc = s.pc := rfl
@[simp] theorem State.setOutputs_mar (s : State) (v : List Word) : (s.setOutputs v).mar = s.mar := rfl
@[simp] theorem State.setOutputs_inReg (s : State) (v : List Word) : (s.setOutputs v).inReg = s.inReg := rfl
@[simp] theorem State.setOutputs_outReg (s : State) (v : List Word) : (s.setOutputs v).outReg = s.outReg := rfl
@[simp] theorem State.setOutputs_mem (s : State) (v : List Word) : (s.setOutputs v).mem = s.mem := rfl
@[simp] theorem State.setOutputs_halted (s : State) (v : List Word) : (s.setOutputs v).halted = s.halted := rfl
@[simp] theorem State.setOutputs_upc (s : State) (v : List Word) : (s.setOutputs v).upc = s.upc := rfl
@[simp] theorem State.setOutputs_dec (s : State) (v : List Word) : (s.setOutputs v).dec = s.dec := rfl
@[simp] theorem State.setOutputs_cmp (s : State) (v : List Word) : (s.setOutputs v).cmp = s.cmp := rfl
@[simp] theorem State.setOutputs_intr (s : State) (v : List Word) : (s.setOutputs v).intr = s.intr := rfl
@[simp] theorem State.setOutputs_fault (s : State) (v : List Word) : (s.setOutputs v).fault = s.fault := rfl
@[simp] theorem State.setOutputs_origin (s : State) (v : List Word) : (s.setOutputs v).origin = s.origin := rfl
@[simp] theorem State.setOutputs_inputs (s : State) (v : List Word) : (s.setOutputs v).inputs = s.inputs := rfl
@[simp] theorem State.setOutputs_outputs (s : State) (v : List Word) : (s.setOutputs v).outputs = v := rfl
@[simp] theorem State.setOutputs_cfg (s : State) (v : List Word) : (s.setOutputs v).cfg = s.cfg := rfl

end Sys2Proof.Machine
end

