-- ==== Sys2Proof/Laws/MicroOps.lean ====
section
/-! SUPPORT. What a micro-op can do, said once: its transfer, the update of upc, and what no micro-op touches. -/

namespace Sys2Proof.Machine

@[simp] theorem Flow.state_go (s : State) : (Flow.go s).state = s := rfl
@[simp] theorem Flow.state_stop (s : State) : (Flow.stop s).state = s := rfl

/-- A micro-op is its transfer followed by the update of upc (R195). -/
theorem perform_state (x : Addr) (op : MicroOp) (s : State) :
    (perform x op s).state = (transfer x op s).state.setUpc (nextUpc op s.upc) := by
  unfold perform; cases transfer x op s <;> rfl

/-- Every micro-op but StepEnd advances upc by one. -/
theorem nextUpc_of_ne {op : MicroOp} (h : op ≠ .stepEnd) (u : BitVec 4) : nextUpc op u = u + 1 := by
  cases op <;> first | rfl | exact absurd rfl h

/-- No micro-op writes the last origin, the parameters or the host's answers. -/
theorem transfer_model_fields (x : Addr) (op : MicroOp) (s : State) :
    (transfer x op s).state.origin = s.origin ∧ (transfer x op s).state.cfg = s.cfg ∧
      (transfer x op s).state.inputs = s.inputs := by
  cases op <;> simp only [transfer] <;> (try split) <;> exact ⟨rfl, rfl, rfl⟩

/-- A transfer leaves upc alone; `perform` moves it. -/
theorem transfer_upc (x : Addr) (op : MicroOp) (s : State) : (transfer x op s).state.upc = s.upc := by
  cases op <;> simp only [transfer] <;> (try split) <;> rfl

/-- The micro-ops that stop the instruction: a Halt, and a fault at Decode or CMP (R341). -/
theorem transfer_stop {x : Addr} {op : MicroOp} {s t : State} (h : transfer x op s = .stop t) :
    (op = .haltOp ∧ t = s.setHalted true) ∨
      (op = .decode ∧ opcodeOf s.ir = none ∧ t = raiseFault .unsupportedOpcode s) ∨
      (op = .cmp ∧ evalCond x s.ac = none ∧ t = raiseFault .unsupportedSkipCond s) := by
  cases op <;> simp only [transfer] at h <;> (try split at h) <;> simp_all

/-- Memory is written by MemWr alone (20_memory.md R73). -/
theorem transfer_mem {x : Addr} {op : MicroOp} (s : State) (h : op ≠ .memWr) : (transfer x op s).state.mem = s.mem := by
  cases op <;> simp only [transfer] <;> (try split) <;> first | rfl | exact absurd rfl h

/-- A micro-op keeps memory canonical. -/
theorem transfer_mem_wf (x : Addr) (op : MicroOp) {s : State} (h : s.mem.wf = true) :
    (transfer x op s).state.mem.wf = true := by
  by_cases hop : op = .memWr
  · subst hop; exact State.writeMem_wf h s.mar s.mbr
  · rw [transfer_mem s hop]; exact h

/-! What each micro-op leaves (R182, R195): the register it writes, and upc advanced. -/

@[simp] theorem perform_stepStart (x : Addr) (s : State) :
    perform x .stepStart s = .go { s with upc := s.upc + 1 } := rfl

@[simp] theorem perform_marFromPC (x : Addr) (s : State) :
    perform x .marFromPC s = .go { s with mar := s.pc, upc := s.upc + 1 } := rfl

@[simp] theorem perform_memRd (x : Addr) (s : State) :
    perform x .memRd s = .go { s with mbr := s.readMem s.mar, upc := s.upc + 1 } := rfl

@[simp] theorem perform_irFromMBR (x : Addr) (s : State) :
    perform x .irFromMBR s = .go { s with ir := s.mbr, upc := s.upc + 1 } := rfl

@[simp] theorem perform_pcInc (x : Addr) (s : State) :
    perform x .pcInc s = .go { s with pc := s.pc + 1, upc := s.upc + 1 } := rfl

@[simp] theorem perform_marFromIR (x : Addr) (s : State) :
    perform x .marFromIR s = .go { s with mar := x, upc := s.upc + 1 } := rfl

@[simp] theorem perform_marFromMBR (x : Addr) (s : State) :
    perform x .marFromMBR s = .go { s with mar := low12 s.mbr, upc := s.upc + 1 } := rfl

@[simp] theorem perform_mbrFromAC (x : Addr) (s : State) :
    perform x .mbrFromAC s = .go { s with mbr := s.ac, upc := s.upc + 1 } := rfl

@[simp] theorem perform_mbrFromPC (x : Addr) (s : State) :
    perform x .mbrFromPC s = .go { s with mbr := zext16 s.pc, upc := s.upc + 1 } := rfl

@[simp] theorem perform_mbrFromIR (x : Addr) (s : State) :
    perform x .mbrFromIR s = .go { s with mbr := zext16 x, upc := s.upc + 1 } := rfl

@[simp] theorem perform_memWr (x : Addr) (s : State) :
    perform x .memWr s = .go { s with mem := s.mem.write s.mar.toNat s.mbr, upc := s.upc + 1 } := rfl

@[simp] theorem perform_acFromMBR (x : Addr) (s : State) :
    perform x .acFromMBR s = .go { s with ac := s.mbr, upc := s.upc + 1 } := rfl

@[simp] theorem perform_outFromAC (x : Addr) (s : State) :
    perform x .outFromAC s = .go { s with outReg := s.ac, outputs := s.outputs ++ [s.ac], upc := s.upc + 1 } := rfl

@[simp] theorem perform_pcFromIR (x : Addr) (s : State) :
    perform x .pcFromIR s = .go { s with pc := x, upc := s.upc + 1 } := rfl

@[simp] theorem perform_pcFromMBR (x : Addr) (s : State) :
    perform x .pcFromMBR s = .go { s with pc := low12 s.mbr, upc := s.upc + 1 } := rfl

@[simp] theorem perform_pcFromAC (x : Addr) (s : State) :
    perform x .pcFromAC s = .go { s with pc := if s.jnsKeepsAC then x + 1 else low12 s.ac, upc := s.upc + 1 } := rfl

@[simp] theorem perform_aluSub (x : Addr) (s : State) :
    perform x .aluSub s = .go { s with ac := s.ac - s.mbr, upc := s.upc + 1 } := rfl

@[simp] theorem perform_aluLoadImmi (x : Addr) (s : State) :
    perform x .aluLoadImmi s = .go { s with ac := zext16 x, upc := s.upc + 1 } := rfl

@[simp] theorem perform_inputReq (x : Addr) (s : State) :
    perform x .inputReq s = .go { s with intr := .needsValue, upc := s.upc + 1 } := rfl

@[simp] theorem perform_haltOp (x : Addr) (s : State) :
    perform x .haltOp s = .stop { s with halted := true, upc := s.upc + 1 } := rfl

@[simp] theorem perform_stepEnd (x : Addr) (s : State) : perform x .stepEnd s = .go { s with upc := 0 } := rfl

/-- ACone and ALU_ADD leave AC alone in a JnS with `jns_ac_write = false` (44_control.md R281). -/
@[simp] theorem perform_acOne (x : Addr) (s : State) :
    perform x .acOne s = .go { s with ac := if s.jnsKeepsAC then s.ac else 1, upc := s.upc + 1 } := by
  simp only [perform, transfer]; split <;> rfl

@[simp] theorem perform_aluAdd (x : Addr) (s : State) :
    perform x .aluAdd s = .go { s with ac := if s.jnsKeepsAC then s.ac else s.ac + s.mbr, upc := s.upc + 1 } := by
  simp only [perform, transfer]; split <;> rfl

@[simp] theorem perform_skipInc (x : Addr) (s : State) :
    perform x .skipInc s = .go { s with pc := if s.cmp then s.pc + 1 else s.pc, upc := s.upc + 1 } := by
  simp only [perform, transfer]; split <;> rfl

/-- Decode latches the entry, or raises fault 1 (R192). -/
theorem perform_decode_some {x : Addr} {s : State} {op : Opcode} (h : opcodeOf s.ir = some op) :
    perform x .decode s = .go { s with dec := some op, upc := s.upc + 1 } := by
  simp only [perform, transfer, h]; rfl

theorem perform_decode_none {x : Addr} {s : State} (h : opcodeOf s.ir = none) :
    perform x .decode s = .stop { s with halted := true, fault := .unsupportedOpcode, upc := s.upc + 1 } := by
  simp only [perform, transfer, h]; rfl

/-- CMP stores the selected comparison (R285). -/
theorem perform_cmp_some {x : Addr} {s : State} {b : Bool} (h : evalCond x s.ac = some b) :
    perform x .cmp s = .go { s with cmp := b, upc := s.upc + 1 } := by
  simp only [perform, transfer, h]; rfl

@[simp] theorem runOps_nil (x : Addr) (s : State) : runOps x [] s = .go s := rfl

/-- Running a list that begins with a micro-op that goes on. -/
theorem runOps_cons_go {x : Addr} {op : MicroOp} {s t : State} (ops : List MicroOp) (h : perform x op s = .go t) :
    runOps x (op :: ops) s = runOps x ops t := by
  simp [runOps, h]

/-- Running a list that begins with a micro-op that halts the block. -/
theorem runOps_cons_stop {x : Addr} {op : MicroOp} {s t : State} (ops : List MicroOp) (h : perform x op s = .stop t) :
    runOps x (op :: ops) s = .stop t := by
  simp [runOps, h]

/-- A list run keeps whatever every micro-op keeps. -/
theorem runOps_keeps {P : State → Prop} (x : Addr) (step : ∀ op s, P s → P (perform x op s).state) (ops : List MicroOp) (s : State)
    (h : P s) : P (runOps x ops s).state := by
  induction ops generalizing s with
  | nil => exact h
  | cons op ops ih =>
    have hs := step op s h
    cases hp : perform x op s with
    | go t => rw [runOps_cons_go ops hp]; exact ih t (by simpa [hp] using hs)
    | stop t => rw [runOps_cons_stop ops hp]; simpa [hp] using hs

/-- An instruction run through `runInstr` always goes on, in a step-end state or with the block halted. -/
theorem runInstr_next (op : Opcode) (ops : List MicroOp) (x : Addr) (s : State) :
    ∃ t, runInstr op ops x s = .next t ∧
      (runOps x ops (latch op s) = .stop t ∨ ∃ u, runOps x ops (latch op s) = .go u ∧ t = stepEnd u) := by
  unfold runInstr
  cases h : runOps x ops (latch op s) with
  | go u => exact ⟨_, rfl, .inr ⟨u, rfl, rfl⟩⟩
  | stop t => exact ⟨t, rfl, .inl rfl⟩

/-- An input attempt: spent, accepted, or not there (R311, R313). -/
theorem attemptInput_cases (s : State) :
    (s.inputs = [] ∧ attemptInput s = s) ∨
      (∃ rest, s.inputs = none :: rest ∧ attemptInput s = s.setInputs rest) ∨
      ∃ v rest, s.inputs = some v :: rest ∧
        attemptInput s = stepEnd (inputLoad (inputAccept v (s.setInputs rest))) := by
  unfold attemptInput
  split
  · exact .inl ⟨‹_›, rfl⟩
  · exact .inr (.inl ⟨_, ‹_›, rfl⟩)
  · exact .inr (.inr ⟨_, _, ‹_›, rfl⟩)

/-- The live operand is the operand of the instruction whose word IR holds. -/
theorem State.operand_of_ir {s : State} {i : Instr} (h : s.ir = encode i) : s.operand = i.operandBits := by
  rw [State.operand, h]; exact operandField_append _ _

end Sys2Proof.Machine
end

