-- ==== Sys2Proof/Laws/PerInstr.lean ====
section
/-! SUPPORT. Statements for all instructions, one lemma per constructor. -/

/-- The two fields of an instruction's word are its opcode bits and its operand bits (30_encoding.md R100, R125). -/
def Sys2Proof.Laws.EncodedFields.Statement (i : Sys2Proof.Instr) : Prop :=
  Sys2Proof.opcodeField (Sys2Proof.encode i) = i.opcodeBits ∧ Sys2Proof.operandField (Sys2Proof.encode i) = i.operandBits

namespace Sys2Proof.Laws.EncodedFields

/-- The fields of an encoded instruction, whatever its constructor. -/
theorem of_encode (i : Instr) : Statement i := ⟨opcodeField_append _ _, operandField_append _ _⟩

theorem jns (x : Addr) : Statement (.jns x) := of_encode _
theorem load (x : Addr) : Statement (.load x) := of_encode _
theorem store (x : Addr) : Statement (.store x) := of_encode _
theorem add (x : Addr) : Statement (.add x) := of_encode _
theorem subt (x : Addr) : Statement (.subt x) := of_encode _
theorem input (x : Addr) : Statement (.input x) := of_encode _
theorem output (x : Addr) : Statement (.output x) := of_encode _
theorem halt (x : Addr) : Statement (.halt x) := of_encode _
theorem skipCond (c : Cond) (ignored : BitVec 10) : Statement (.skipCond c ignored) := of_encode _
theorem jump (x : Addr) : Statement (.jump x) := of_encode _
theorem loadImmi (x : Addr) : Statement (.loadImmi x) := of_encode _
theorem addI (x : Addr) : Statement (.addI x) := of_encode _
theorem jumpI (x : Addr) : Statement (.jumpI x) := of_encode _
theorem loadI (x : Addr) : Statement (.loadI x) := of_encode _
theorem storeI (x : Addr) : Statement (.storeI x) := of_encode _
theorem adr (x : Addr) : Statement (.adr x) := of_encode _
theorem clear : Statement .clear := of_encode _
theorem undefinedOpcode0xF (x : Addr) : Statement (.undefinedOpcode0xF x) := of_encode _

end Sys2Proof.Laws.EncodedFields
end

