-- ==== Sys2Proof/Laws/Sequencer.lean ====
section
/-! SUPPORT. What a micro-step, a tick and a host move can do, said once. -/

namespace Sys2Proof.Machine

/-- A progressing micro-step is an accepted input, an input load, or the micro-op at upc (R184). -/
theorem microStep_moved {s t : State} {d : Option Int} {e : Event} (h : microStep s d = .moved t e) :
    s.halted = false ∧
      ((∃ v, s.intr = .needsValue ∧ d = some v ∧ t = inputAccept v s ∧
          e = writeEvent .input (.reg .inReg) s (inputAccept v s)) ∨
        (s.intr = .needsLoad ∧ t = inputLoad s ∧ e = writeEvent .registerTransfer (.reg .ac) s (inputLoad s)) ∨
        ∃ op, s.intr = .idle ∧ microOpAt s = some op ∧ t = (perform s.operand op s).state ∧ e = eventOf s.operand op s) := by
  unfold microStep at h
  split at h
  · cases h
  · refine ⟨by simpa using ‹¬ s.halted = true›, ?_⟩
    split at h
    · split at h
      · cases h
      · cases h; exact .inl ⟨_, ‹_›, rfl, rfl, rfl⟩
    · cases h; exact .inr (.inl ⟨‹_›, rfl, rfl⟩)
    · split at h
      · cases h; exact .inr (.inr ⟨_, ‹_›, ‹_›, rfl, rfl⟩)
      · cases h

/-- The micro-op at a position of the fetch (R184). -/
theorem microOpAt_fetch {s : State} (h : s.upc.toNat < 6) : microOpAt s = fetchDecodeOps[s.upc.toNat]? := if_pos h

/-- The micro-op at a position of the decoded instruction, its step-end included (R193, R194). -/
theorem microOpAt_execute {s : State} {op : Opcode} (h : 6 ≤ s.upc.toNat) (hd : s.dec = some op) :
    microOpAt s = (microOps op ++ [.stepEnd])[s.upc.toNat - 6]? := by
  rw [microOpAt, if_neg (by omega), hd]; rfl

/-- IR takes no part in selecting the micro-op (R197). -/
theorem microOpAt_setIR (s : State) (w : Word) : microOpAt (s.setIR w) = microOpAt s := rfl

/-- A step from an instruction boundary dispatches; a step from anywhere else resumes. -/
theorem step_of_boundary {s : State} (h : s.atBoundary = true) : step s = exec (decodeWord (fetch s).ir) (fetch s) := if_pos h

theorem step_of_not_boundary {s : State} (h : s.atBoundary = false) : step s = resume s := by
  unfold step; rw [h]; exact if_neg (by simp)

/-- What an instruction boundary is. -/
theorem State.atBoundary_iff {s : State} : s.atBoundary = true ↔ s.halted = false ∧ s.upc = 0 ∧ s.intr = .idle := by
  simp [State.atBoundary, and_assoc]

/-- Every 12-bit address is in the host port's range (20_memory.md R79). -/
theorem hostAddr_toNat (a : Addr) : hostAddr (a.toNat : Int) = some a := by
  have h : 0 ≤ (a.toNat : Int) ∧ (a.toNat : Int) < ((memWords : Nat) : Int) :=
    ⟨by omega, by have := a.isLt; simp [memWords]; omega⟩
  simp only [hostAddr, h, and_self, if_true]; simp

/-- A host memory write in range (R79, R214). -/
theorem hostAct_writeMem {a : Int} {x : Addr} (h : hostAddr a = some x) (s : State) (v : Int) :
    hostAct (.writeMem a (.number v)) s = .next (s.writeMem x (wordOfInt v)) := by
  simp only [hostAct, writeMemPort, h, stateOfWrite]

/-- A host move that goes on: a register write, a memory write, a reset, a load that fits, or an answer (R361). -/
theorem hostAct_next {a : HostAction} {s t : State} (h : hostAct a s = .next t) :
    (∃ r w, t = s.writeReg r w) ∨ (∃ x w, t = s.writeMem x w) ∨ t = resetRegisters s ∨
      (∃ origin program, origin.toNat + program.length ≤ memWords ∧ t = loaded origin program s) ∨
      ∃ d, t = s.setInputs (s.inputs ++ [d]) := by
  cases a with
  | writeReg code v =>
    simp only [hostAct, writeRegPort] at h
    split at h <;> simp only [stateOfWrite] at h <;> cases h
    exact .inl ⟨_, _, rfl⟩
  | writeMem addr v =>
    simp only [hostAct, writeMemPort] at h
    split at h <;> simp only [stateOfWrite] at h <;> cases h
    exact .inr (.inl ⟨_, _, rfl⟩)
  | resetRegisters => cases h; exact .inr (.inr (.inl rfl))
  | load origin program =>
    simp only [hostAct, load] at h
    split at h
    · cases h
    · cases h; exact .inr (.inr (.inr (.inl ⟨_, _, by omega, rfl⟩)))
  | answerInput answer => cases h; exact .inr (.inr (.inr (.inr ⟨_, rfl⟩)))

end Sys2Proof.Machine
end

