-- ==== Sys2Proof/Tests/Slice0.lean ====
section
/-! SUPPORT. Tests: decoding by written-out words, single steps with the expected values of spec/95_test_vectors.md (its V, S and
T numbers stand in the names' comments), the assembler's examples, and a witness for the hypotheses of every statement. -/

namespace Sys2Proof.Machine.Tests

/-! Helpers. -/

/-- Memory with the given words. -/
def words (cells : List (Nat × Word)) : Memory := cells.foldl (fun m c => m.write c.1 c.2) []

/-- Power-on with the given words in memory: the `load` state at origin 0 of 95_test_vectors.md. -/
def at0 (cells : List (Nat × Word)) : State := { State.reset with mem := words cells }

/-- The same with AC set. -/
def at0Ac (ac : Word) (cells : List (Nat × Word)) : State := { at0 cells with ac := ac }

/-- The state after one step, read by `f`. -/
def after {α : Type} (s : State) (f : State → α) : Option α := (nextState (step s)).map f

/-- A state whose next instruction is `i`. -/
def ready (i : Instr) : State := State.reset.withFetchWord 16 (encode i).toNat

/-- A block that waits for an input value, with the given answers to come. -/
def waiting (answers : List (Option Int)) : State :=
  { State.reset with mem := words [(0, 0x5000)], ir := 0x5000, mbr := 0x5000, pc := 1, upc := 7, dec := some .input
                     intr := .needsValue, inputs := answers }

/-- A block that has run a Halt at 000. -/
def stopped : State :=
  { State.reset with mem := words [(0, 0x7000)], ir := 0x7000, mbr := 0x7000, pc := 1, upc := 7, dec := some .halt
                     halted := true }

/-- A `Load 004` whose Decode has run, as V7's rows on IR pokes have it. -/
def decodedLoad : State :=
  { State.reset with mem := words [(0, 0x1004), (4, 0x1111), (5, 0x2222)], ir := 0x1004, mbr := 0x1004, pc := 1, upc := 6
                     dec := some .load }

/-- One instruction of every constructor. -/
def samples : List Instr :=
  [.jns 4, .load 3, .store 8, .add 4, .subt 9, .input 0xABC, .output 0, .halt 0, .skipCond .zero 0] ++
  [.jump 5, .loadImmi 0xFFF, .addI 4, .jumpI 4, .loadI 4, .storeI 5, .adr 4, .clear, .undefinedOpcode0xF 0x123]

/-! WellFormed: the terms that name no instruction of their own are refused. -/

theorem test_wellFormed_refuses_adr : (Instr.adr 4).wellFormed = false := by decide
theorem test_wellFormed_refuses_clear : Instr.clear.wellFormed = false := by decide
theorem test_wellFormed_takes_the_rest : (samples.filter Instr.wellFormed).length = 16 := by decide

/-! Decoding, one word per constructor, its four opcode bits and twelve operand bits from R100 and R102. -/

theorem test_decode_jns : decodeWord (0b0000#4 ++ 0b000000000100#12) = .jns 0x004 := by decide
theorem test_decode_load : decodeWord (0b0001#4 ++ 0b000000000011#12) = .load 0x003 := by decide
theorem test_decode_store : decodeWord (0b0010#4 ++ 0b000000001000#12) = .store 0x008 := by decide
theorem test_decode_add : decodeWord (0b0011#4 ++ 0b000000000100#12) = .add 0x004 := by decide
theorem test_decode_subt : decodeWord (0b0100#4 ++ 0b000000001001#12) = .subt 0x009 := by decide
theorem test_decode_input : decodeWord (0b0101#4 ++ 0b101010111100#12) = .input 0xABC := by decide
theorem test_decode_output : decodeWord (0b0110#4 ++ 0b000000000000#12) = .output 0 := by decide
theorem test_decode_halt : decodeWord (0b0111#4 ++ 0b101010111100#12) = .halt 0xABC := by decide
theorem test_decode_skipCond_neg : decodeWord (0b1000#4 ++ 0b001111111111#12) = .skipCond .neg 0x3FF := by decide
theorem test_decode_skipCond_zero : decodeWord (0b1000#4 ++ 0b010000000000#12) = .skipCond .zero 0 := by decide
theorem test_decode_skipCond_pos : decodeWord (0b1000#4 ++ 0b100000000001#12) = .skipCond .pos 1 := by decide
theorem test_decode_skipCond_nonZero : decodeWord (0b1000#4 ++ 0b110000000000#12) = .skipCond .nonZero 0 := by decide
theorem test_decode_jump : decodeWord (0b1001#4 ++ 0b000000000101#12) = .jump 0x005 := by decide
theorem test_decode_loadImmi : decodeWord (0b1010#4 ++ 0b000100100011#12) = .loadImmi 0x123 := by decide
theorem test_decode_addI : decodeWord (0b1011#4 ++ 0b000000000100#12) = .addI 0x004 := by decide
theorem test_decode_jumpI : decodeWord (0b1100#4 ++ 0b000000000100#12) = .jumpI 0x004 := by decide
theorem test_decode_loadI : decodeWord (0b1101#4 ++ 0b000000000100#12) = .loadI 0x004 := by decide
theorem test_decode_storeI : decodeWord (0b1110#4 ++ 0b000000000101#12) = .storeI 0x005 := by decide
theorem test_decode_undefined : decodeWord (0b1111#4 ++ 0b000100100011#12) = .undefinedOpcode0xF 0x123 := by decide
/-- Adr and Clear have the words of JnS and LoadImmi 0 (R124), and decode to those. -/
theorem test_decode_aliases : encode (.adr 4) = 0x0004 ∧ encode .clear = 0xA000 ∧ decodeWord 0xA000 = .loadImmi 0 := by decide

/-! The host's two entry points. -/

theorem test_decodeTableWord : decodeTableWord 16 0x1003 = some (.load 3) ∧ decodeTableWord 17 0x1003 = none := by decide
theorem test_withFetchWord : after (State.reset.withFetchWord 16 0xA123) (·.ac) = some 0x123 := by decide
theorem test_core_step : (nextState (Sys2Proof.core.step (ready (.loadImmi 5)))).map (·.ac) = some 5 := by decide

/-! Data transfer (V3). -/

theorem test_load : after (at0 [(0, 0x1003), (3, 0x04D2)]) (fun t => (t.ac, t.mar, t.mbr, t.pc, t.upc)) =
    some (0x04D2, 0x003, 0x04D2, 0x001, 0) := by decide
theorem test_load_top : after (at0 [(0, 0x1FFF), (0xFFF, 0xBEEF)]) (fun t => (t.ac, t.mar)) = some (0xBEEF, 0xFFF) := by decide
theorem test_store : after (at0Ac 2 [(0, 0x2008)]) (fun t => (t.mem.read 8, t.mar, t.mbr, t.ac)) =
    some (2, 0x008, 2, 2) := by decide
/-- A zero stored leaves the canonical form: no cell at 3. -/
theorem test_store_zero : after (at0 [(0, 0x2003), (3, 0x04D2)]) (·.mem) = some [(0, 0x2003)] := by decide
theorem test_loadImmi : after (at0Ac 0x7777 [(0, 0xA123)]) (fun t => (t.ac, t.mar, t.mbr)) = some (0x0123, 0, 0xA123) := by decide
theorem test_loadImmi_unsigned : after (at0 [(0, 0xAFFF)]) (·.ac) = some 0x0FFF := by decide
theorem test_clear : (nextState (exec .clear (fetch (at0Ac 0xFFFF [(0, 0xA000)])))).map (·.ac) = some 0 := by decide
theorem test_loadI_masks_pointer : after (at0 [(0, 0xD004), (4, 0xF005), (5, 0x1234)]) (fun t => (t.ac, t.mar)) =
    some (0x1234, 0x005) := by decide
theorem test_loadI_own_pointer : after (at0 [(0, 0xD004), (4, 0x0004)]) (fun t => (t.ac, t.mar)) = some (0x0004, 0x004) := by decide
theorem test_storeI : after (at0Ac 0x2000 [(0, 0xE005), (5, 0x0007)]) (fun t => (t.mem.read 7, t.mar, t.mbr, t.ac)) =
    some (0x2000, 0x007, 0x2000, 0x2000) := by decide
theorem test_storeI_over_pointer : after (at0Ac 0x2000 [(0, 0xE005), (5, 0x0005)]) (fun t => (t.mem.read 5, t.mar)) =
    some (0x2000, 0x005) := by decide

/-! Arithmetic (V4). -/

theorem test_add : after (at0Ac 0x04D2 [(0, 0x3004), (4, 0x03F2)]) (fun t => (t.ac, t.mar, t.mbr)) =
    some (0x08C4, 0x004, 0x03F2) := by decide
theorem test_add_wraps : after (at0Ac 0xFFFF [(0, 0x3004), (4, 1)]) (·.ac) = some 0 := by decide
theorem test_subt : after (at0Ac 3 [(0, 0x4009), (9, 1)]) (·.ac) = some 2 := by decide
theorem test_subt_wraps : after (at0Ac 0 [(0, 0x4004), (4, 1)]) (·.ac) = some 0xFFFF := by decide
theorem test_addI : after (at0Ac 0x9000 [(0, 0xB004), (4, 6), (6, 0x9000)]) (fun t => (t.ac, t.mar, t.mbr)) =
    some (0x2000, 0x006, 0x9000) := by decide
theorem test_addI_masks_pointer : after (at0Ac 1 [(0, 0xB004), (4, 0xF006), (6, 2)]) (fun t => (t.ac, t.mar)) =
    some (3, 0x006) := by decide

/-! Control transfer (V5, T2). -/

theorem test_jns : after (at0 [(0, 0x0004)]) (fun t => (t.mem.read 4, t.pc, t.ac, t.mar, t.mbr)) =
    some (1, 0x005, 5, 0x004, 4) := by decide
theorem test_jns_top : after (at0 [(0, 0x0FFF)]) (fun t => (t.mem.read 0xFFF, t.pc, t.ac, t.mar, t.mbr)) =
    some (1, 0x000, 0x1000, 0xFFF, 0x0FFF) := by decide
/-- V5's row with `jns_ac_write = false`. -/
theorem test_jns_keeps_ac : after { at0Ac 0x1234 [(0, 0x0004)] with cfg := { jnsAcWrite := false } }
    (fun t => (t.mem.read 4, t.pc, t.ac)) = some (1, 0x005, 0x1234) := by decide
/-- R281 with `jns_ac_write = false` at the top of memory: PC is still X + 1. -/
theorem test_jns_keeps_ac_top : after { at0Ac 0x1234 [(0, 0x0FFF)] with cfg := { jnsAcWrite := false } }
    (fun t => (t.mem.read 0xFFF, t.pc, t.ac)) = some (1, 0x000, 0x1234) := by decide
theorem test_adr : (nextState (exec (.adr 4) (fetch (at0 [(0, 0x0004)])))).map (fun t => (t.mem.read 4, t.pc, t.ac)) =
    some (1, 0x005, 5) := by decide
theorem test_skipCond_taken : after (at0Ac 0xFFFF [(0, 0x83FF)]) (fun t => (t.cmp, t.pc, t.ac)) =
    some (true, 0x002, 0xFFFF) := by decide
theorem test_skipCond_not_taken : after (at0Ac 0x8000 [(0, 0x8800)]) (fun t => (t.cmp, t.pc)) = some (false, 0x001) := by decide
theorem test_skipCond_wraps : after { at0 [(0xFFE, 0x8400)] with pc := 0xFFE } (fun t => (t.cmp, t.pc)) =
    some (true, 0x000) := by decide
theorem test_jump : after (at0 [(0, 0x9005)]) (fun t => (t.pc, t.mar)) = some (0x005, 0) := by decide
theorem test_jumpI : after (at0 [(0, 0xC004), (4, 0xF123)]) (fun t => (t.pc, t.mar, t.mbr)) =
    some (0x123, 0x004, 0xF123) := by decide

/-! Input, output, halt and opcode 0xF (V6, T3). -/

theorem test_input : after { at0 [(0, 0x5000)] with inputs := [some 1234] } (fun t => (t.inReg, t.ac, t.intr, t.upc, t.pc)) =
    some (0x04D2, 0x04D2, .idle, 0, 1) := by decide
theorem test_input_negative : after { at0 [(0, 0x5ABC)] with inputs := [some (-32768)] } (fun t => (t.inReg, t.ac)) =
    some (0x8000, 0x8000) := by decide
theorem test_input_not_ready : after { at0 [(0, 0x5000)] with inputs := [none, some 1234] } (fun t => (t.intr, t.upc, t.inReg, t.inputs)) =
    some (.needsValue, 7, 0, [some 1234]) := by decide
theorem test_input_resumes : after (waiting [some 70000]) (fun t => (t.intr, t.upc, t.inReg, t.ac)) =
    some (.idle, 0, 0x1170, 0x1170) := by decide
theorem test_output : after { at0Ac 7 [(0, 0x6000)] with outputs := [7] } (fun t => (t.outReg, t.outputs)) =
    some (7, [7, 7]) := by decide
theorem test_halt : after { at0 [(2, 0x7ABC)] with pc := 2 } (fun t => (t.halted, t.fault, t.pc, t.mar, t.upc, t.ir)) =
    some (true, .none, 3, 2, 7, 0x7ABC) := by decide
theorem test_undefined : after { at0 [(0x10, 0xF123)] with pc := 0x10 } (fun t => (t.halted, t.fault, t.pc, t.mar, t.ir, t.mbr)) =
    some (true, .unsupportedOpcode, 0x011, 0x010, 0xF123, 0xF123) := by decide
theorem test_undefined_upc : after (at0 [(0, 0xFFFF)]) (fun t => (t.upc, t.dec, t.pc)) = some (6, none, 1) := by decide

/-! The ALU's and the selector's corner cases (V1). -/

theorem test_alu_corners : aluAdd 0x7FFF 1 = 0x8000 ∧ aluSub 0 0x8000 = 0x8000 ∧ aluSub 0x8000 1 = 0x7FFF := by decide
theorem test_comparisons : [0x0000#16, 0x0001, 0x7FFF, 0x8000, 0xFFFF, 0x0FFF].map (fun a => (acNeg a, acZero a, acPos a, acNonZero a)) =
    [(false, true, false, false), (false, false, true, true), (false, false, true, true), (true, false, false, true),
     (true, false, false, true), (false, false, true, true)] := by decide
theorem test_selection : evalCond (operandField 0x87FF) 0 = some true ∧
    evalCond (operandField 0x8400) 5 = some false ∧ evalCond (operandField 0x8C00) 0 = some false ∧
    evalCond (operandField 0x83FF) 0xFFFF = some true := by decide

/-! The sequencer, reset, load and the host port (V2, V7). -/

theorem test_fetch_wraps : (fetch { at0 [(0xFFF, 0x1005)] with pc := 0xFFF }).pc = 0 := by decide
theorem test_microStep_counts : microCycle (at0 [(0, 0x0004)]) = .stopped 14 true { at0 [(0, 4), (4, 1)] with
    ac := 5, ir := 4, mbr := 4, pc := 5, mar := 4, dec := some .jns } := by decide
/-- `writeReg(IR, 1005)` at upc 6 of a `Load 004`: AC = 2222. -/
theorem test_poke_ir_before_marFromIR : after (decodedLoad.writeReg .ir 0x1005) (fun t => (t.mar, t.ac)) = some (5, 0x2222) := by decide
/-- `writeReg(IR, 3004)` at upc 6 of a `Load 004`: the list stays Load's. -/
theorem test_poke_ir_keeps_list : after ({ decodedLoad with ac := 1 }.writeReg .ir 0x3004) (·.ac) = some 0x1111 := by decide
theorem test_reset_keeps_memory : (resetRegisters stopped).mem = stopped.mem ∧ (resetRegisters stopped).halted = false := by decide
theorem test_load_at_origin : (nextState (load 0x100 [0x7000, 0x12345] stopped)).map (fun t => (t.mem, t.pc)) =
    some ([(0x100, 0x7000), (0x101, 0x2345)], 0x100) := by decide
theorem test_writeReg_masks : (nextState (hostAct (.writeReg 3 (.number 0x1234)) State.reset)).map (·.pc) = some 0x234 := by decide
theorem test_writeMem_masks : (nextState (hostAct (.writeMem 5 (.number 0x12345)) State.reset)).map (·.mem) =
    some [(5, 0x2345)] := by decide
theorem test_host_refuses : nextState (hostAct (.writeReg 7 (.number 1)) State.reset) = none ∧
    nextState (hostAct (.writeMem 0x1000 (.number 1)) State.reset) = none ∧
    nextState (load 0xFFF [1, 2] State.reset) = none := by decide
/-- An answer of 1.5 counts as "not ready" (R314). -/
theorem test_answer_nonInteger : InputAnswer.nonInteger.draw = none ∧ (InputAnswer.integer (-1)).draw = some (-1) := by decide

/-! The assembler (V8, S1, S4, S5). -/

/-- The words of a one-part program, or the errors' types and lines. -/
def asm (text : String) : List Word ⊕ List (AsmErrorKind × Nat) :=
  match assemble text.toList with
  | .success a => .inl a.program
  | .failure es => .inr (es.map fun e => (e.reason.kind, e.line))

theorem test_asm_S1 : asm "Load A\nAdd B\nHalt\nA, DEC 1234\nB, DEC 1010" =
    .inl [0x1003, 0x3004, 0x7000, 0x04D2, 0x03F2] := by decide
theorem test_asm_S4 : assemble "Label, Add Label\nLabel, Halt".toList = .failure [⟨.duplicateLabel 1, 2⟩] := by decide
theorem test_asm_S5 : asm "Add 1000" = .inr [(.syntaxError, 1)] := by decide
theorem test_asm_S5_message : AsmReason.addressOutOfBounds.message = "address out of bounds" := by decide
theorem test_asm_case : asm "load 3 / comment\n\n/ only a comment\nLOAD 3" = .inl [0x1003, 0x1003] := by decide
theorem test_asm_skipCond : asm "SkipCond 0C00\nSkipCond 800" = .inl [0x8C00, 0x8800] ∧
    asm "SkipCond C00" = .inr [(.syntaxError, 1)] := by decide
theorem test_asm_dec : asm "DEC -1\nDEC -32768\nDEC 65535\nDEC 65536\nDEC -32769" = .inr [(.valueError, 4), (.valueError, 5)] ∧
    asm "DEC -1\nDEC -32768" = .inl [0xFFFF, 0x8000] := by decide
theorem test_asm_radix : asm "HEX FFFF\nOCT 177777" = .inl [0xFFFF, 0xFFFF] ∧
    asm "HEX 10000\nOCT 8" = .inr [(.valueError, 1), (.valueError, 2)] := by decide
theorem test_asm_operands : asm "Halt 5\nLoad\nFrob 3\nClear 5\n1abc, Halt" =
    .inr [(.syntaxError, 5), (.syntaxError, 1), (.syntaxError, 2), (.syntaxError, 3), (.syntaxError, 4)] := by decide
theorem test_asm_org : assemble "ORG 100\nHalt".toList =
    .success { origin := 0x100, program := [0x7000], symbols := [], sourceMap := [(0x100, 2)] } := by decide
/-- One error for an `org` that is late and malformed (log entry 34). -/
theorem test_asm_org_late_malformed : assemble "Halt\nORG 1".toList = .failure [⟨.orgLate, 2⟩] := by decide
theorem test_asm_org_late : asm "Halt\nORG 100" = .inr [(.syntaxError, 2)] := by decide
/-- A data line is no instruction line, and takes an address from the origin all the same (R128). -/
theorem test_asm_org_after_data : assemble "A, DEC 1\nORG 100\nJump A".toList =
    .success { origin := 0x100, program := [1, 0x9100], symbols := [("A".toList, 0x100)], sourceMap := [(0x100, 1), (0x101, 3)] } := by
  decide
/-- A malformed line past the end of memory gives both its errors (R120, R128). -/
theorem test_asm_malformed_past_memory : asm "ORG FFF\nHalt\nA, B, C" = .inr [(.syntaxError, 3), (.valueError, 3)] := by decide
/-- A line of a tab, a vertical tab, a form feed and a space is blank (R120). -/
theorem test_asm_blank_line : lineShape ['\t', Char.ofNat 0x0B, Char.ofNat 0x0C, ' '] = .blank := by decide
/-- A label on an `end` line or an `org` line is unique too (R121). -/
theorem test_asm_label_on_directive : asm "A, Halt\nA, END" = .inr [(.labelError, 2)] ∧
    asm "A, ORG 100\nA, Halt" = .inr [(.labelError, 2)] := by decide
theorem test_asm_end : asm "Halt\nEND\nFrob" = .inl [0x7000] := by decide
theorem test_asm_aliases : asm "Adr Sub\nClear\nHalt\nHalt\nSub, DEC 0" = .inl [4, 0xA000, 0x7000, 0x7000, 0] := by decide

/-! Witnesses: states and operands that meet the hypotheses of the statements, named after them. -/

/-- LoadPlacesImageAndResets: one word at FFF fits, two do not. -/
theorem witness_LoadPlacesImageAndResets :
    (0xFFF : Addr).toNat + [7].length ≤ 4096 ∧ 4096 < (0xFFF : Addr).toNat + [7, 8].length := by decide

theorem witness_DecodeOfEncodeIsCanonical : (Instr.skipCond .pos 1).wellFormed = true := by decide

theorem witness_FetchLoadsWordAndIncrementsPC : (ready (.load 3)).upc = 0 := by decide

/-- FetchDecodeMicroSteps: running at each of the six positions, with a defined and with the undefined opcode in IR. -/
theorem witness_FetchDecodeMicroSteps : ∀ u ∈ [0#4, 1, 2, 3, 4, 5],
    let s := { decodedLoad with upc := u }
    let f := { s with ir := 0xF123 }
    s.halted = false ∧ s.intr = .idle ∧ s.upc = u ∧ opcodeField s.ir ≠ 0xF ∧ opcodeField f.ir = 0xF := by decide

/-- StepRunsTheInstructionAtPC, StepIsTheMicroStepLoop, MicroStepCountOfEveryInstruction and the last clause of every rule of an
instruction: for each well-formed constructor a boundary state with its word at PC. -/
theorem witness_boundary_with_instruction :
    ∀ i ∈ samples, i.wellFormed = true →
      (ready i).atBoundary = true ∧ (ready i).readMem (ready i).pc = encode i := by decide

/-- The same for JnS, Adr's word included, at the top of memory. -/
theorem witness_boundary_at_top :
    let s := { State.reset with mem := words [(0xFFF, encode (.jns 0xFFF))], pc := 0xFFF }
    s.atBoundary = true ∧ s.readMem s.pc = encode (.jns 0xFFF) ∧ s.readMem s.pc = encode (.adr 0xFFF) := by decide

/-- MicroStepCountOfEveryInstruction and InputRuleWithAnswer: an Input with an answer. -/
theorem witness_input_with_answer :
    let s := { ready (.input 0) with inputs := [some (-1)] }
    s.atBoundary = true ∧ s.readMem s.pc = encode (.input 0) ∧ s.inputs = some (-1) :: [] := by decide

/-- InputWaitsWithoutAnswer: no answer at all, and a "not ready". -/
theorem witness_InputWaitsWithoutAnswer :
    State.reset.inputs.head?.join = none ∧ { State.reset with inputs := [none, some 3] }.inputs.head?.join = none := by decide

/-- StepStopsAtBoundaryHaltOrWait: a step to each of the three. -/
theorem witness_StepStopsAtBoundaryHaltOrWait :
    after (ready (.load 3)) State.atBoundary = some true ∧ after (ready (.halt 0)) (·.halted) = some true ∧
      after (ready (.input 0)) State.isWaiting = some true := by decide

/-- The invariant holds while the block waits. -/
theorem witness_Inv_waiting : (waiting []).Inv :=
  ⟨by decide, by decide, .inl (.inr ⟨.input, by decide⟩), by decide, by decide, by decide⟩

/-- The invariant holds in a halted block. -/
theorem witness_Inv_halted : stopped.Inv :=
  ⟨by decide, by decide, .inr (by decide), by decide, by decide, by decide⟩

/-- The invariant holds in the middle of a Load. -/
theorem witness_Inv_running : decodedLoad.Inv :=
  ⟨by decide, by decide, .inl (.inr ⟨.load, by decide⟩), by decide, by decide, by decide⟩

/-- NoProgressOnlyWhenHaltedOrBlocked, with `witness_Inv_*`: halted, blocked, and neither. -/
theorem witness_NoProgressOnlyWhenHaltedOrBlocked :
    stopped.halted = true ∧ (waiting []).intr = .needsValue ∧ decodedLoad.halted = false ∧ decodedLoad.intr = .idle := by decide

theorem witness_DrawReadOnlyWhenValueNeeded : decodedLoad.intr ≠ .needsValue := by decide

/-- HaltedBlockStandsStill, and the second clause of StepStopsAtBoundaryHaltOrWait: a halted block, and a move that starts it. -/
theorem witness_HaltedBlockStandsStill :
    stopped.halted = true ∧ (nextState (hostAct .resetRegisters stopped)).map (·.halted) = some false := by decide

/-- UndefinedOpcodeRule, last clause: an 0xF word in IR. -/
theorem witness_UndefinedOpcodeRule : (fetch (ready (.undefinedOpcode0xF 0xFFF))).ir = encode (.undefinedOpcode0xF 0xFFF) := by decide

/-- StoreRule, StoreIRule, MemoryReadsLastWrite: a canonical memory with cells. -/
theorem witness_canonical_memory : (words [(0, 0xE005), (0xFFF, 7), (5, 6)]).wf = true := by decide

/-- WaitingInputTakesFirstUsableAnswer: two attempts without an answer, then one with. -/
theorem witness_WaitingInputTakesFirstUsableAnswer :
    (waiting [none, none, some 5]).isWaiting = true ∧ (waiting [none, none, some 5]).dec = some .input ∧
      (waiting [none, none, some 5]).upc = 7 ∧
      (waiting [none, none, some 5]).inputs = List.replicate 2 none ++ some 5 :: [] := by decide

theorem witness_BlockWithoutAnswersWaitsForever : (waiting []).isWaiting = true ∧ (waiting []).inputs = [] := by decide

/-- MemoryChangesOnlyWhereStored: an instruction that stores, at an address and outside it, and one that stores nothing. -/
theorem witness_MemoryChangesOnlyWhereStored :
    (ready (.storeI 5)).mem.wf = true ∧ storeAddr (.storeI 5) (ready (.storeI 5)) = some 0 ∧
      storeAddr (.storeI 5) (ready (.storeI 5)) ≠ some 5 ∧ storeAddr (.load 3) (ready (.load 3)) = none ∧
      (∃ t, exec (.storeI 5) (ready (.storeI 5)) = .next t) ∧ ∃ t, exec (.load 3) (ready (.load 3)) = .next t :=
  ⟨by decide, by decide, by decide, by decide, ⟨_, rfl⟩, ⟨_, rfl⟩⟩

/-- RegistersChangeOnlyWhereNamed: AC, PC, MAR and MBR change. -/
theorem witness_RegistersChangeOnlyWhereNamed_jns :
    ∃ t, exec (.jns 4) State.reset = .next t ∧ t.ac ≠ 0 ∧ t.pc ≠ 0 ∧ t.mar ≠ 0 ∧ t.mbr ≠ 0 := ⟨_, rfl, by decide⟩

/-- RegistersChangeOnlyWhereNamed: cmp changes. -/
theorem witness_RegistersChangeOnlyWhereNamed_skipCond :
    ∃ t, exec (.skipCond .zero 0) State.reset = .next t ∧ t.cmp ≠ false := ⟨_, rfl, by decide⟩

/-- RegistersChangeOnlyWhereNamed: IN and the answers change, and intr where there is no answer. -/
theorem witness_RegistersChangeOnlyWhereNamed_input :
    (∃ t, exec (.input 0) { State.reset with inputs := [some 1] } = .next t ∧ t.inReg ≠ 0 ∧ t.inputs ≠ [some 1]) ∧
      ∃ t, exec (.input 0) State.reset = .next t ∧ t.intr ≠ .idle := ⟨⟨_, rfl, by decide⟩, ⟨_, rfl, by decide⟩⟩

/-- RegistersChangeOnlyWhereNamed: OUT and the output stream change. -/
theorem witness_RegistersChangeOnlyWhereNamed_output :
    ∃ t, exec (.output 0) { State.reset with ac := 7 } = .next t ∧ t.outReg ≠ 0 ∧ t.outputs ≠ [] := ⟨_, rfl, by decide⟩

/-- RegistersChangeOnlyWhereNamed: halted changes, with and without a fault code. -/
theorem witness_RegistersChangeOnlyWhereNamed_halt :
    (∃ t, exec (.halt 0) State.reset = .next t ∧ t.halted ≠ false) ∧
      ∃ t, exec (.undefinedOpcode0xF 0) State.reset = .next t ∧ t.halted ≠ false ∧ t.fault ≠ .none :=
  ⟨⟨_, rfl, by decide⟩, ⟨_, rfl, by decide⟩⟩

/-- StoreIsSeenByNextFetch: a fetched StoreI whose pointer, in 005, is the next word, for the two stores, and a boundary state. -/
theorem witness_StoreIsSeenByNextFetch :
    let s := fetch (at0Ac 0xF000 [(0, 0xE005), (5, 0xF001)])
    let b := at0 [(0, 0x7000)]
    (s.mem.wf = true ∧ s.halted = false ∧ s.intr = .idle ∧ low12 (s.readMem 5) = s.pc) ∧
      b.mem.wf = true ∧ b.halted = false ∧ b.intr = .idle ∧ b.upc = 0 := by decide

/-- JumpIReturnsFromJnS: a call and its return. -/
theorem witness_JumpIReturnsFromJnS :
    let s := fetch (at0 [(0, 0x0004), (5, 0xC004)])
    s.mem.wf = true ∧ ∃ t v, exec (.jns 4) s = .next t ∧ (fetch t).readMem 4 = t.readMem 4 ∧ exec (.jumpI 4) (fetch t) = .next v :=
  ⟨by decide, _, _, rfl, by decide, rfl⟩

/-- ConditionSelectedByTwoBits: an operand for each selector, and two that agree in it. -/
theorem witness_ConditionSelectedByTwoBits :
    (0x3FF : Addr) &&& 0xC00 = 0x000 ∧ (0x7FF : Addr) &&& 0xC00 = 0x400 ∧ (0x800 : Addr) &&& 0xC00 = 0x800 ∧
      (0xFFF : Addr) &&& 0xC00 = 0xC00 ∧ (0x3FF : Addr) &&& 0xC00 = (0x000 : Addr) &&& 0xC00 := by decide

/-- RaisedFaultOnlyHalts and OnlyDecodeOfOpcodeFFaults: the Decode of an 0xF word. -/
theorem witness_raised_fault :
    let s := { State.reset with ir := 0xF123, upc := 5 }
    s.fault = .none ∧ ∃ t e, microStep s none = .moved t e ∧ t.fault ≠ .none := ⟨by decide, _, _, rfl, by decide⟩

/-- MicroStepKeepsInvariant, with `witness_Inv_running`. -/
theorem witness_MicroStepKeepsInvariant : ∃ t e, microStep decodedLoad none = .moved t e := ⟨_, _, rfl⟩

/-- StepKeepsInvariant, with `witness_Inv_running`. -/
theorem witness_StepKeepsInvariant : after decodedLoad (·.ac) = some 0x1111 := by decide

/-- HostMoveKeepsInvariant, with `witness_Inv_waiting`. -/
theorem witness_HostMoveKeepsInvariant : ∃ t, hostAct (.answerInput (.integer 5)) (waiting []) = .next t := ⟨_, rfl⟩

/-- ReachableStatesAreInPosition: a reachable state that is not power-on. -/
theorem witness_ReachableStatesAreInPosition : ∃ s, Reachable s ∧ s.upc = 1 :=
  ⟨_, .micro (d := none) .powerOn rfl, by decide⟩

/-- HostRegisterWriteIsMasked: the last code that names a register, and the first that does not. -/
theorem witness_HostRegisterWriteIsMasked : regOfCode 6 = some .outReg ∧ 7 ≤ 7 := by decide

/-- HostMemoryWriteIsMasked: the edges of the range, inside and outside. -/
theorem witness_HostMemoryWriteIsMasked :
    State.reset.mem.wf = true ∧ (0 ≤ (0xFFF : Int) ∧ (0xFFF : Int) ≤ 0xFFF) ∧ (0 ≤ (0 : Int) ∧ (0 : Int) ≤ 0xFFF) ∧
      (-1 : Int) < 0 ∧ (0xFFF : Int) < 0x1000 := by decide

theorem witness_PokedInstructionRegisterChangesOperandOnly :
    decodedLoad.halted = false ∧ decodedLoad.intr = .idle ∧ decodedLoad.upc = 6 ∧ decodedLoad.dec = some .load := by decide

/-- TraceRewindsRun: a waiting block, from which two micro-steps go on. -/
theorem witness_TraceRewindsRun : (waiting []).Inv ∧ (microRun [some 5, none] (waiting [])).2.length = 2 :=
  ⟨witness_Inv_waiting, by decide⟩

/-- OutputStreamIsOutputEvents: a micro-step with an output event and one with another. -/
theorem witness_OutputStreamIsOutputEvents :
    (∃ t e, microStep { State.reset with upc := 6, dec := some .output } none = .moved t e ∧ e.kind = .output) ∧
      ∃ t e, microStep decodedLoad none = .moved t e ∧ e.kind ≠ .output := ⟨⟨_, _, rfl, by decide⟩, ⟨_, _, rfl, by decide⟩⟩

/-- AssembledProgramFitsAndLoads: a text that assembles. -/
theorem witness_AssembledProgramFitsAndLoads : ∃ a, assemble "Halt".toList = .success a := ⟨_, rfl⟩

/-- AssembledWordOfEachMnemonic: a literal at the top of the range and a label. -/
theorem witness_AssembledWordOfEachMnemonic :
    operandValue [] "0FFF".toList = .ok 0xFFF ∧ operandValue [("A".toList, 3)] "A".toList = .ok 3 := ⟨rfl, rfl⟩

end Sys2Proof.Machine.Tests
end

section
/-! PROOFS. The laws of the register file (10_state.md R30 to R32), and the host's register write (41_sequencer.md R214, R216). -/

namespace Sys2Proof.Machine

/-! What a register write leaves unchanged. -/

@[simp] theorem State.writeReg_mem (s : State) (r : Reg) (w : Word) : (s.writeReg r w).mem = s.mem := by cases r <;> rfl
@[simp] theorem State.writeReg_halted (s : State) (r : Reg) (w : Word) : (s.writeReg r w).halted = s.halted := by
  cases r <;> rfl
@[simp] theorem State.writeReg_upc (s : State) (r : Reg) (w : Word) : (s.writeReg r w).upc = s.upc := by cases r <;> rfl
@[simp] theorem State.writeReg_dec (s : State) (r : Reg) (w : Word) : (s.writeReg r w).dec = s.dec := by cases r <;> rfl
@[simp] theorem State.writeReg_cmp (s : State) (r : Reg) (w : Word) : (s.writeReg r w).cmp = s.cmp := by cases r <;> rfl
@[simp] theorem State.writeReg_intr (s : State) (r : Reg) (w : Word) : (s.writeReg r w).intr = s.intr := by cases r <;> rfl
@[simp] theorem State.writeReg_fault (s : State) (r : Reg) (w : Word) : (s.writeReg r w).fault = s.fault := by
  cases r <;> rfl
@[simp] theorem State.writeReg_origin (s : State) (r : Reg) (w : Word) : (s.writeReg r w).origin = s.origin := by
  cases r <;> rfl

/-! What a register reads as after a write. -/

/-- R32: PC and MAR keep the low 12 bits of the value, the other registers all 16. -/
theorem State.readReg_writeReg_same (s : State) (r : Reg) (w : Word) :
    (s.writeReg r w).readReg r = if r = .pc ∨ r = .mar then zext16 (low12 w) else w := by
  cases r <;> rfl

theorem State.readReg_writeReg_of_ne {q r : Reg} (h : q ≠ r) (s : State) (w : Word) :
    (s.writeReg r w).readReg q = s.readReg q := by
  cases r <;> cases q <;> simp [State.readReg, State.writeReg] at h ⊢

theorem toNat_wordOfInt (v : Int) : (wordOfInt v).toNat = (v % 65536).toNat := BitVec.toNat_ofInt v

/-- Two masks, to 16 bits and then to 12, leave the value modulo 2^12. -/
theorem toNat_zext16_low12_wordOfInt (v : Int) : (zext16 (low12 (wordOfInt v))).toNat = (v % 4096).toNat := by
  have hlow : (zext16 (low12 (wordOfInt v))).toNat = (wordOfInt v).toNat % 4096 := by
    rw [zext16, low12, BitVec.toNat_setWidth_of_le (by decide), BitVec.toNat_setWidth]
  rw [hlow, toNat_wordOfInt]
  omega

/-- R32 and R214: an integer written to a register is kept modulo 2^width. -/
theorem State.toNat_readReg_writeReg_wordOfInt (s : State) (r : Reg) (v : Int) :
    ((s.writeReg r (wordOfInt v)).readReg r).toNat = (v % (if r = .pc ∨ r = .mar then 4096 else 65536)).toNat := by
  rw [State.readReg_writeReg_same]
  split
  · exact toNat_zext16_low12_wordOfInt v
  · exact toNat_wordOfInt v

/-! The select codes and the port, one equation per case. -/

theorem regOfCode_eq_none {code : Nat} (h : 7 ≤ code) : regOfCode code = none := by
  obtain ⟨n, rfl⟩ := Nat.exists_eq_add_of_le' h
  rfl

theorem writeRegPort_number {code : Nat} {r : Reg} (h : regOfCode code = some r) (v : Int) (s : State) :
    writeRegPort code (.number v) s =
      .next (s.writeReg r (wordOfInt v), writeEvent .regset (.reg r) s (s.writeReg r (wordOfInt v))) := by
  simp only [writeRegPort, h]

theorem writeRegPort_nonNumeric {code : Nat} {r : Reg} (h : regOfCode code = some r) (s : State) :
    writeRegPort code .nonNumeric s = .refused .nonNumericValue := by
  simp only [writeRegPort, h]

theorem writeRegPort_of_no_register {code : Nat} (h : regOfCode code = none) (value : HostValue) (s : State) :
    writeRegPort code value s = .refused .noSuchRegister := by
  simp only [writeRegPort, h]

/-- Settles O54: the port's equations, and the laws of the register file for the state it leaves. -/
theorem hostRegisterWriteIsMasked : Obligations.HostRegisterWriteIsMasked := by
  unfold Obligations.HostRegisterWriteIsMasked
  intro code v s
  refine ⟨fun r hr => ?_, fun hcode value => writeRegPort_of_no_register (regOfCode_eq_none hcode) value s⟩
  refine ⟨_, _, writeRegPort_number hr v s, s.toNat_readReg_writeReg_wordOfInt r v,
    fun q hq => State.readReg_writeReg_of_ne hq s _, ?_⟩
  simp [writeEvent, writtenAt, State.readDest, writeRegPort_nonNumeric hr]

end Sys2Proof.Machine
end

section
/-! PROOFS. Memory (20_memory.md): reads after writes, the host's memory write (R79, 41_sequencer.md R214, R216), and a stored word
as the next instruction (R83, 70_reset_and_hazards.md R391). -/

namespace Sys2Proof.Machine

/-- Settles O41: the two laws of a memory write, at 12-bit addresses. -/
theorem memoryReadsLastWrite : Obligations.MemoryReadsLastWrite := by
  unfold Obligations.MemoryReadsLastWrite
  intro m a b w hm
  refine ⟨Memory.wf_write hm a.isLt, ?_⟩
  simp only [Memory.read_write hm, BitVec.toNat_inj]

/-! The host's address check and the memory port, one equation per case. -/

/-- The host's addresses in range are the 12-bit ones (R79). -/
theorem exists_addr_of_hostRange {a : Int} (h : 0 ≤ a ∧ a ≤ 0xFFF) : ∃ x : Addr, (x.toNat : Int) = a := by
  have hlt : a.toNat < 2 ^ 12 := by omega
  exact ⟨BitVec.ofNatLT a.toNat hlt, by rw [BitVec.toNat_ofNatLT]; omega⟩

theorem hostAddr_eq_none {a : Int} (h : a < 0 ∨ 0xFFF < a) : hostAddr a = none := by
  rw [hostAddr, memWords, if_neg (by omega)]

theorem writeMemPort_number {a : Int} {x : Addr} (h : hostAddr a = some x) (v : Int) (s : State) :
    writeMemPort a (.number v) s =
      .next (s.writeMem x (wordOfInt v), writeEvent .memset (.mem x) s (s.writeMem x (wordOfInt v))) := by
  simp only [writeMemPort, h]

theorem writeMemPort_nonNumeric {a : Int} {x : Addr} (h : hostAddr a = some x) (s : State) :
    writeMemPort a .nonNumeric s = .refused .nonNumericValue := by
  simp only [writeMemPort, h]

theorem writeMemPort_of_no_address {a : Int} (h : hostAddr a = none) (value : HostValue) (s : State) :
    writeMemPort a value s = .refused .addressOutOfRange := by
  simp only [writeMemPort, h]

/-- R216: what the event of a memory write says was written. -/
theorem written_writeEvent_mem {s : State} (h : s.mem.wf = true) (kind : EventKind) (x : Addr) (w : Word) :
    (writeEvent kind (.mem x) s (s.writeMem x w)).written = some ⟨.mem x, s.readMem x, w⟩ := by
  simp [writeEvent, writtenAt, State.readDest, State.readMem_writeMem h]

/-- Settles O55: an address in range is a 12-bit one, at which the port is a memory write; any other is refused. -/
theorem hostMemoryWriteIsMasked : Obligations.HostMemoryWriteIsMasked := by
  unfold Obligations.HostMemoryWriteIsMasked
  intro a v s hm
  refine ⟨fun ha => ?_, fun ha value => writeMemPort_of_no_address (hostAddr_eq_none ha) value s⟩
  obtain ⟨x, rfl⟩ := exists_addr_of_hostRange ha
  have hx : hostAddr (x.toNat : Int) = some x := hostAddr_toNat x
  have hofInt : BitVec.ofInt 12 (x.toNat : Int) = x := by simp
  refine ⟨_, _, writeMemPort_number hx v s, rfl, fun b => ?_, rfl, ?_, writeMemPort_nonNumeric hx s⟩
  · simp only [State.readMem_writeMem hm, Int.natCast_inj, BitVec.toNat_inj, wordOfInt]
  · rw [hofInt, written_writeEvent_mem hm, wordOfInt]

/-! The stores, and the step from an instruction boundary. -/

/-- R232: the state that Store leaves. -/
theorem exec_store (x : Addr) (s : State) :
    exec (.store x) s =
      .next { s with mar := x, mbr := s.ac, mem := s.mem.write x.toNat s.ac, dec := some .store, upc := 0 } := by
  simp [exec, execStore, runInstr, storeOps, runOps, latch, stepEnd, State.setDec, State.setUpc]

/-- R236: the state that StoreI leaves; the pointer is read before the write. -/
theorem exec_storeI (x : Addr) (s : State) :
    exec (.storeI x) s =
      .next { s with mar := low12 (s.readMem x), mbr := s.ac, mem := s.mem.write (low12 (s.readMem x)).toNat s.ac,
                     dec := some .storeI, upc := 0 } := by
  simp [exec, execStoreI, runInstr, storeIOps, runOps, latch, stepEnd, State.setDec, State.setUpc, State.readMem]

/-- R189, R190: the fetch loads the word at PC into IR. -/
@[simp] theorem fetch_ir (s : State) : (fetch s).ir = s.readMem s.pc := rfl

/-- A boundary state whose memory is another's with `w` written at PC fetches `w` and runs it (R83). -/
theorem fetch_step_of_written_at_pc {s t : State} {w : Word} (hs : s.mem.wf = true) (ht : t.atBoundary = true)
    (hmem : t.mem = s.mem.write t.pc.toNat w) :
    (fetch t).ir = w ∧ step t = exec (decodeWord w) (fetch t) := by
  have hir : (fetch t).ir = w := by
    rw [fetch_ir, State.readMem, hmem, Memory.read_write hs, if_pos rfl]
  exact ⟨hir, by rw [step_of_boundary ht, hir]⟩

/-- Settles O42: Store, StoreI and the host write each leave a boundary state with the word written at PC. -/
theorem storeIsSeenByNextFetch : Obligations.StoreIsSeenByNextFetch := by
  unfold Obligations.StoreIsSeenByNextFetch
  intro s hm hrun hidle
  refine ⟨⟨_, exec_store s.pc s, ?_⟩, fun x hx => ⟨_, exec_storeI x s, ?_⟩, fun v hupc =>
    ⟨_, hostAct_writeMem (hostAddr_toNat s.pc) s v, ?_⟩⟩
  · exact fetch_step_of_written_at_pc hm (State.atBoundary_iff.mpr ⟨hrun, rfl, hidle⟩) rfl
  · exact fetch_step_of_written_at_pc hm (State.atBoundary_iff.mpr ⟨hrun, rfl, hidle⟩) (by rw [hx])
  · exact fetch_step_of_written_at_pc hm (State.atBoundary_iff.mpr ⟨hrun, hupc, hidle⟩) rfl

end Sys2Proof.Machine
end

section
/-! PROOFS. The decoder and the encoder (30_encoding.md R100 to R105, R125): the three fields of a decoded and of an encoded
instruction, and the opcode map. -/

namespace Sys2Proof

/-! The operand field of SkipCond (R101, R105). -/

/-- Every value of the two selector bits is a condition's. -/
theorem Cond.bits_exhaustive : ∀ b : BitVec 2,
    b = Cond.neg.bits ∨ b = Cond.zero.bits ∨ b = Cond.pos.bits ∨ b = Cond.nonZero.bits := by decide

theorem condOfOperand_bits (x : Addr) : (condOfOperand x).bits = x.extractLsb' 10 2 := by
  rcases Cond.bits_exhaustive (x.extractLsb' 10 2) with h | h | h | h <;> simp only [condOfOperand, h] <;> rfl

/-- An operand field is its condition above its ten ignored bits. -/
@[simp] theorem skipCondOperand_condOfOperand (x : Addr) : skipCondOperand (condOfOperand x) (x.extractLsb' 0 10) = x := by
  rw [skipCondOperand, condOfOperand_bits]
  exact (BitVec.extractLsb'_append_extractLsb'_eq_extractLsb' rfl).trans BitVec.extractLsb'_eq_self

/-! The instruction that a table entry makes (R101). -/

@[simp] theorem instrOf_opcode (op : Opcode) (x : Addr) : (instrOf op x).opcode = some op := by cases op <;> rfl

@[simp] theorem instrOf_opcodeBits (op : Opcode) (x : Addr) : (instrOf op x).opcodeBits = op.bits := by cases op <;> rfl

/-- SkipCond is the one entry that takes its operand field apart. -/
@[simp] theorem instrOf_operandBits (op : Opcode) (x : Addr) : (instrOf op x).operandBits = x := by
  cases op with
  | skipCond => exact skipCondOperand_condOfOperand x
  | _ => rfl

@[simp] theorem instrOf_wellFormed (op : Opcode) (x : Addr) : (instrOf op x).wellFormed = true := by
  cases op <;> simp [instrOf, Instr.wellFormed, Instr.canonical]

/-- R125: the word is the entry's bits above the operand. -/
theorem encode_instrOf (op : Opcode) (x : Addr) : encode (instrOf op x) = op.bits ++ x := by
  rw [encode, instrOf_opcodeBits, instrOf_operandBits]

theorem Instr.wellFormed_iff {i : Instr} : i.wellFormed = true ↔ i.canonical = i := decide_eq_true_iff

/-- An instruction with a table entry is a spelling of the one that its entry makes with its operand field. -/
theorem Instr.canonical_of_opcode_some {i : Instr} {op : Opcode} (h : i.opcode = some op) :
    i.canonical = instrOf op i.operandBits := by
  cases i <;> cases h <;> simp [Instr.canonical, instrOf, Instr.operandBits]

theorem Instr.canonical_of_opcode_none {i : Instr} (h : i.opcode = none) :
    i.canonical = .undefinedOpcode0xF i.operandBits := by
  cases i <;> cases h
  rfl

/-! The fields of a decoded instruction. -/

theorem decodeWord_of_some {w : Word} {op : Opcode} (h : opcodeOf w = some op) : decodeWord w = instrOf op (operandField w) := by
  rw [decodeWord, h]

theorem decodeWord_of_none {w : Word} (h : opcodeOf w = none) : decodeWord w = .undefinedOpcode0xF (operandField w) := by
  rw [decodeWord, h]

@[simp] theorem decodeWord_opcode (w : Word) : (decodeWord w).opcode = opcodeOf w := by
  cases h : opcodeOf w with
  | none => rw [decodeWord_of_none h]; rfl
  | some op => rw [decodeWord_of_some h, instrOf_opcode]

@[simp] theorem decodeWord_opcodeBits (w : Word) : (decodeWord w).opcodeBits = opcodeField w := by
  cases h : opcodeOf w with
  | none => rw [decodeWord_of_none h, (opcodeOfField_eq_none _).mp h]; rfl
  | some op => rw [decodeWord_of_some h, instrOf_opcodeBits, bits_of_opcodeOfField _ _ h]

@[simp] theorem decodeWord_operandBits (w : Word) : (decodeWord w).operandBits = operandField w := by
  cases h : opcodeOf w with
  | none => rw [decodeWord_of_none h]; rfl
  | some op => rw [decodeWord_of_some h, instrOf_operandBits]

@[simp] theorem decodeWord_wellFormed (w : Word) : (decodeWord w).wellFormed = true := by
  cases h : opcodeOf w with
  | none => rw [decodeWord_of_none h]; exact Instr.wellFormed_iff.mpr rfl
  | some op => rw [decodeWord_of_some h, instrOf_wellFormed]

/-! The fields of an encoded instruction. -/

@[simp] theorem opcodeOf_encode (i : Instr) : opcodeOf (encode i) = i.opcode := by
  rw [opcodeOf, encode, opcodeField_append, Instr.opcodeBits]
  cases i.opcode with
  | none => rfl
  | some op => exact opcodeOfField_bits op

@[simp] theorem operandField_encode (i : Instr) : operandField (encode i) = i.operandBits := operandField_append _ _

theorem decodeWord_encode (i : Instr) : decodeWord (encode i) = i.canonical := by
  cases h : i.opcode with
  | none => rw [decodeWord_of_none (by rw [opcodeOf_encode, h]), operandField_encode, Instr.canonical_of_opcode_none h]
  | some op => rw [decodeWord_of_some (by rw [opcodeOf_encode, h]), operandField_encode, Instr.canonical_of_opcode_some h]

theorem encode_decodeWord (w : Word) : encode (decodeWord w) = w := by
  rw [encode, decodeWord_opcodeBits, decodeWord_operandBits, opcodeField_append_operandField]

/-- Settles O4: the word keeps the entry and the operand field, and these two make the canonical instruction. -/
theorem decodeOfEncodeIsCanonical : Obligations.DecodeOfEncodeIsCanonical := by
  unfold Obligations.DecodeOfEncodeIsCanonical
  exact ⟨fun i hi => (decodeWord_encode i).trans (Instr.wellFormed_iff.mp hi), decodeWord_encode⟩

/-- Settles O5: the decoded instruction keeps both fields of the word. -/
theorem everyWordDecodesAndEncodesBack : Obligations.EveryWordDecodesAndEncodesBack := by
  unfold Obligations.EveryWordDecodesAndEncodesBack
  exact fun w => ⟨decodeWord_wellFormed w, encode_decodeWord w⟩

/-! The rows of the opcode map (R102). -/

/-- A mask of all the high bits keeps the high part and clears the low one. -/
theorem append_and_highMask {m n : Nat} (a : BitVec m) (b : BitVec n) :
    (a ++ b) &&& (BitVec.allOnes m ++ 0#n) = a ++ 0#n := by
  rw [BitVec.and_append, BitVec.and_allOnes, BitVec.and_zero]

theorem and_0xF000 (w : Word) : w &&& 0xF000 = opcodeField w ++ 0#12 := by
  conv_lhs => rw [← opcodeField_append_operandField w]
  exact append_and_highMask _ _

/-- Every row compares the opcode field, and the decoder has its entry at that field. -/
theorem opcodeRows_fields : ∀ r ∈ opcodeRows,
    r.mask = 0xF000 ∧ r.pattern = opcodeField r.pattern ++ 0#12 ∧ opcodeOfField (opcodeField r.pattern) = r.entry := by decide

theorem opcodeRows_exists : ∀ b : BitVec 4, ∃ r ∈ opcodeRows, opcodeField r.pattern = b := by decide

theorem opcodeRows_unique : ∀ r ∈ opcodeRows, ∀ r' ∈ opcodeRows,
    opcodeField r'.pattern = opcodeField r.pattern → r' = r := by decide

/-- A row of the map selects the words that have its opcode field. -/
theorem OpcodeRow.selects_iff {r : OpcodeRow} (hr : r ∈ opcodeRows) (w : Word) :
    r.selects w = true ↔ opcodeField r.pattern = opcodeField w := by
  obtain ⟨hmask, hpattern, -⟩ := opcodeRows_fields r hr
  rw [OpcodeRow.selects, decide_eq_true_iff, hmask, and_0xF000, hpattern, BitVec.append_left_inj, opcodeField_append, eq_comm]

/-- Settles O6: a row selects a word by the opcode field alone, and the rows have the sixteen fields, one each. -/
theorem decoderFollowsOpcodeMap : Obligations.DecoderFollowsOpcodeMap := by
  unfold Obligations.DecoderFollowsOpcodeMap
  intro w
  obtain ⟨r, hr, hfield⟩ := opcodeRows_exists (opcodeField w)
  have hentry : opcodeOf w = r.entry := by
    obtain ⟨-, -, h⟩ := opcodeRows_fields r hr
    rw [opcodeOf, ← hfield, h]
  refine ⟨r, hr, (OpcodeRow.selects_iff hr w).mpr hfield, (decodeWord_opcode w).trans hentry, hentry, fun r' hr' hsel => ?_⟩
  exact opcodeRows_unique r hr r' hr' (((OpcodeRow.selects_iff hr' w).mp hsel).trans hfield.symm)

/-- Settles O7, by running the decoder on the six words. -/
theorem writtenOutWordsDecode : Obligations.WrittenOutWordsDecode := by
  unfold Obligations.WrittenOutWordsDecode
  decide

end Sys2Proof
end

section
/-! PROOFS. The assembler (30_encoding.md section 3): the size of an assembled program (R128, R130), and the words of the
mnemonics (R131). -/

namespace Sys2Proof.Machine

/-! What an assembly answers. -/

theorem assemble_ne_failure_nil (text : List Char) : assemble text ≠ .failure [] := by
  simp only [assemble]
  split
  · exact AsmResult.noConfusion
  · next h =>
    intro heq
    exact h (by rw [AsmResult.failure.inj heq, List.isEmpty_nil])

/-- A success is what the passes found, and they found no error. -/
theorem assemble_success {text : List Char} {a : Assembled} (h : assemble text = .success a) :
    (passOf text).allErrors = [] ∧ a.origin = (passOf text).origin ∧ a.program = (passOf text).words := by
  simp only [assemble] at h
  split at h
  · next hnil => cases h; exact ⟨List.isEmpty_iff.mp hnil, rfl, rfl⟩
  · cases h

theorem AsmPass.words_length_le (p : AsmPass) : p.words.length ≤ p.lines.length := List.length_filterMap_le _ _

/-- Every word of a text has a place. -/
theorem passOf_words_length_le (text : List Char) : (passOf text).words.length ≤ (passOf text).sourceLines.length :=
  (AsmPass.words_length_le _).trans (structuralPass_lines_le _ _ _ le_rfl)

/-- Without an error, the words lie in memory from the origin on (R128). -/
theorem passOf_fits {text : List Char} (h : (passOf text).allErrors = []) :
    (passOf text).origin.toNat + (passOf text).words.length ≤ memWords := by
  have hwords := passOf_words_length_le text
  have horigin : (passOf text).origin.toNat < memWords := (passOf text).origin.isLt
  rcases placeErrors_eq_nil _ _ _ (List.append_eq_nil_iff.mp h).2 with hnone | hplaces
  · rw [hnone, List.length_nil] at hwords
    omega
  · omega

/-- Settles O59: the places of an assembly without errors lie in memory, and every word has one. -/
theorem assembledProgramFitsAndLoads : Obligations.AssembledProgramFitsAndLoads := by
  unfold Obligations.AssembledProgramFitsAndLoads
  refine fun text s => ⟨assemble_ne_failure_nil text, fun a ha => ?_⟩
  obtain ⟨hnoError, horigin, hprogram⟩ := assemble_success ha
  have hfits : a.origin.toNat + a.program.length ≤ memWords := by
    rw [horigin, hprogram]
    exact passOf_fits hnoError
  refine ⟨hfits, ?_⟩
  rw [loadAssembled, load, List.length_map, if_neg (by omega)]

/-! The word of a mnemonic (R123 to R125). -/

/-- The table entry of an operator that takes an operand: `Adr` is a spelling of JnS (R124). -/
def Operator.entryWithOperand : Operator → Option Opcode
  | .withOperand op => some op
  | .adr => some .jns
  | _ => none

/-- The table entry of an operator that takes no operand: `Clear` is a spelling of LoadImmi 0 (R124). -/
def Operator.entryWithoutOperand : Operator → Option Opcode
  | .withoutOperand op => some op
  | .clear => some .loadImmi
  | _ => none

theorem encode_adr (x : Addr) : encode (.adr x) = Opcode.jns.bits ++ x := rfl

theorem encode_clear : encode .clear = Opcode.loadImmi.bits ++ 0#12 := rfl

theorem lineWord_entryWithOperand {name t : List Char} {o : Operator} {op : Opcode} {symbols : List (List Char × Addr)} {x : Addr}
    (hname : operatorOf name = some o) (ho : o.entryWithOperand = some op) (hx : operandValue symbols t = .ok x)
    (line index : Nat) :
    lineWord symbols ⟨line, index, name, some t⟩ = .ok (op.bits ++ x) ∧
      lineWord symbols ⟨line, index, name, none⟩ = .error .operandMissing := by
  cases o <;> cases ho
  case withOperand => simp [lineWord, hname, hx, Except.map, encode_instrOf]
  case adr => simp [lineWord, hname, hx, Except.map, encode_adr]

theorem lineWord_entryWithoutOperand {name t : List Char} {o : Operator} {op : Opcode} {symbols : List (List Char × Addr)}
    (hname : operatorOf name = some o) (ho : o.entryWithoutOperand = some op)
    (line index : Nat) :
    lineWord symbols ⟨line, index, name, none⟩ = .ok (op.bits ++ 0#12) ∧
      lineWord symbols ⟨line, index, name, some t⟩ = .error .operandUnexpected := by
  cases o <;> cases ho
  case withoutOperand => simp [lineWord, hname, encode_instrOf]
  case clear => simp [lineWord, hname, encode_clear]

/-- The word with operand 0 of a name's table entry, where `entry` says which operators have one (R125). -/
def entryWord (entry : Operator → Option Opcode) (name : List Char) : Option Word :=
  ((operatorOf name).bind entry).map fun op => op.bits ++ 0#12

theorem exists_entry_of_entryWord {entry : Operator → Option Opcode} {name : List Char} {w : Word}
    (h : entryWord entry name = some w) :
    ∃ o op, operatorOf name = some o ∧ entry o = some op ∧ op.bits ++ 0#12 = w := by
  obtain ⟨op, hop, hword⟩ := Option.map_eq_some_iff.mp h
  obtain ⟨o, hname, ho⟩ := Option.bind_eq_some_iff.mp hop
  exact ⟨o, op, hname, ho, hword⟩

/-- R125: the operand bits are set in the word whose operand field is 0. -/
theorem append_eq_or_zext16 (b : BitVec 4) (x : Addr) : (b ++ x : Word) = (b ++ 0#12) ||| zext16 x := by
  have hx : zext16 x = (0#4 ++ x : Word) := BitVec.setWidth_eq_append (by decide)
  rw [hx, BitVec.or_append, BitVec.or_zero, BitVec.zero_or]

/-- Settles O60: the operator table gives each mnemonic's entry, and `lineWord` the word of that entry. -/
theorem assembledWordOfEachMnemonic : Obligations.AssembledWordOfEachMnemonic := by
  unfold Obligations.AssembledWordOfEachMnemonic
  intro symbols t x line index hx
  refine ⟨fun row hrow => ?_, fun row hrow => ?_⟩
  · obtain ⟨o, op, hname, ho, hword⟩ := exists_entry_of_entryWord (entry := Operator.entryWithOperand) (name := row.1.toList)
      (w := row.2) (by revert row; decide)
    rw [← hword, ← append_eq_or_zext16]
    exact lineWord_entryWithOperand hname ho hx line index
  · obtain ⟨o, op, hname, ho, hword⟩ := exists_entry_of_entryWord (entry := Operator.entryWithoutOperand)
      (name := row.1.toList) (w := row.2) (by revert row; decide)
    rw [← hword]
    exact lineWord_entryWithoutOperand hname ho line index

end Sys2Proof.Machine
end

section
/-! PROOFS. The instructions that ignore operand bits (30_encoding.md R101, R104): the state each leaves, in which those bits do
not occur. -/

namespace Sys2Proof.Machine

@[simp] theorem selector_skipCondOperand (c : Cond) (p : BitVec 10) : selector (skipCondOperand c p) = c.bits ++ 0#10 :=
  append_and_highMask c.bits p

/-- R155: the two selector bits of the operand name the condition. -/
@[simp] theorem selectedCond_skipCondOperand (c : Cond) (p : BitVec 10) : selectedCond (skipCondOperand c p) = some c := by
  rw [selectedCond, selector_skipCondOperand]
  cases c <;> rfl

theorem evalCond_skipCondOperand (c : Cond) (p : BitVec 10) (ac : Word) :
    evalCond (skipCondOperand c p) ac = some (condHolds c ac) := by
  rw [evalCond, selectedCond_skipCondOperand, Option.map_some]

/-- R284: the state that SkipCond leaves. -/
theorem exec_skipCond (c : Cond) (p : BitVec 10) (s : State) :
    exec (.skipCond c p) s =
      .next { s with cmp := condHolds c s.ac, pc := if condHolds c s.ac then s.pc + 1 else s.pc, dec := some .skipCond,
                     upc := 0 } := by
  simp only [exec, execSkipCond, runInstr, skipCondOps, runOps, perform_cmp_some (evalCond_skipCondOperand c p _),
    perform_skipInc]
  rfl

/-- R310: the state in which Input makes its first attempt. -/
theorem exec_input (x : Addr) (s : State) :
    exec (.input x) s = .next (attemptInput { s with dec := some .input, intr := .needsValue, upc := 7 }) := rfl

/-- R315: the state that Output leaves. -/
theorem exec_output (x : Addr) (s : State) :
    exec (.output x) s = .next { s with outReg := s.ac, outputs := s.outputs ++ [s.ac], dec := some .output, upc := 0 } := rfl

/-- R316: the state that Halt leaves. -/
theorem exec_halt (x : Addr) (s : State) :
    exec (.halt x) s = .next { s with halted := true, dec := some .halt, upc := 7 } := rfl

/-- R317: the state that opcode 0xF leaves. -/
theorem exec_undefinedOpcode0xF (x : Addr) (s : State) :
    exec (.undefinedOpcode0xF x) s = .next { s with halted := true, fault := .unsupportedOpcode, upc := 6 } := rfl

/-- Settles O8: the ignored bits do not occur in the state that any of the five leaves. -/
theorem ignoredOperandBitsChangeNothing : Obligations.IgnoredOperandBitsChangeNothing := by
  unfold Obligations.IgnoredOperandBitsChangeNothing
  intro x y c p q s
  simp only [exec_input, exec_output, exec_halt, exec_skipCond, exec_undefinedOpcode0xF, and_self]

end Sys2Proof.Machine
end

section
/-! PROOFS. The ALU (40_alu.md): its arithmetic as residues mod 2^16 (R151 to R153, R156), its comparisons on signed AC (R154), and the
selection of a comparison (R155). -/

namespace Sys2Proof.Machine

/-! The comparisons are tests on signed AC (R154). -/

theorem acNeg_eq_decide (ac : Word) : acNeg ac = decide (ac.toInt < 0) := BitVec.msb_eq_toInt

theorem acZero_eq_decide (ac : Word) : acZero ac = decide (ac.toInt = 0) :=
  decide_eq_decide.mpr BitVec.toInt_inj.symm

theorem acNonZero_eq_not_acZero (ac : Word) : acNonZero ac = !acZero ac := decide_not

theorem acPos_eq_acNonZero_and_not_acNeg (ac : Word) : acPos ac = (acNonZero ac && !acNeg ac) := rfl

theorem acNonZero_eq_decide (ac : Word) : acNonZero ac = decide (ac.toInt ≠ 0) := by
  rw [acNonZero_eq_not_acZero, acZero_eq_decide, decide_not]

theorem acPos_eq_decide (ac : Word) : acPos ac = decide (0 < ac.toInt) := by
  rw [acPos_eq_acNonZero_and_not_acNeg, acNonZero_eq_decide, acNeg_eq_decide, ← decide_not, ← Bool.decide_and]
  exact decide_eq_decide.mpr (by omega)

/-- Settles O45: each comparison is its test on signed AC, and the order of the integers is a trichotomy. -/
theorem comparisonsReadSignedAC : Obligations.ComparisonsReadSignedAC := by
  unfold Obligations.ComparisonsReadSignedAC
  intro ac
  rw [acNeg_eq_decide, acZero_eq_decide, acPos_eq_decide, acNonZero_eq_decide]
  refine ⟨decide_eq_true_iff, decide_eq_true_iff, decide_eq_true_iff, decide_eq_true_iff, ?_⟩
  rcases Int.lt_trichotomy ac.toInt 0 with hneg | hzero | hpos
  · simp [hneg, hneg.ne, hneg.le]
  · simp [hzero]
  · simp [hpos, hpos.ne', hpos.le]

/-! The operand's selector names one of the four conditions (R105, R155). -/

theorem evalCond_congr_selector {x y : Addr} (h : selector x = selector y) (ac : Word) : evalCond x ac = evalCond y ac := by
  simp only [evalCond, selectedCond, h]

/-- The selection is that of the condition with the same two bits, above ignored bits that are all 0. -/
theorem evalCond_of_selector {x : Addr} {c : Cond} (h : selector x = c.bits ++ 0#10) (ac : Word) :
    evalCond x ac = some (condHolds c ac) := by
  have hsel : selector x = selector (skipCondOperand c 0) := by rw [h, selector_skipCondOperand]
  rw [evalCond_congr_selector hsel, evalCond_skipCondOperand]

/-- Every operand selects the comparison of its decoded condition, so the fault arm is dead (90_conflicts.md C4). -/
theorem evalCond_eq_condHolds (x : Addr) (ac : Word) : evalCond x ac = some (condHolds (condOfOperand x) ac) := by
  rw [← evalCond_skipCondOperand (condOfOperand x) (x.extractLsb' 0 10) ac, skipCondOperand_condOfOperand]

/-- Settles O46: each selector is the two bits of one condition, and every operand has a condition. -/
theorem conditionSelectedByTwoBits : Obligations.ConditionSelectedByTwoBits := by
  unfold Obligations.ConditionSelectedByTwoBits
  intro x ac
  refine ⟨fun h => ?_, fun h => ?_, fun h => ?_, fun h => ?_, fun y h => evalCond_congr_selector h ac, ?_⟩
  · exact evalCond_of_selector (c := .neg) h ac
  · exact evalCond_of_selector (c := .zero) h ac
  · exact evalCond_of_selector (c := .pos) h ac
  · exact evalCond_of_selector (c := .nonZero) h ac
  · rw [evalCond_eq_condHolds]
    exact Option.some_ne_none _

/-! The arithmetic (R151 to R153, R156). -/

theorem toNat_aluSub (ac mbr : Word) : (aluSub ac mbr).toNat = (ac.toNat + 65536 - mbr.toNat) % 65536 := by
  have hmbr : mbr.toNat < 65536 := mbr.isLt
  rw [aluSub, BitVec.toNat_sub, ← Nat.sub_add_comm hmbr.le, Nat.add_comm]

theorem toNat_aluLoadImmi (x : Addr) : (aluLoadImmi x).toNat = x.toNat :=
  BitVec.toNat_setWidth_of_le (by decide)

/-- A 12-bit immediate leaves the top bit of AC clear. -/
theorem acNeg_aluLoadImmi (x : Addr) : acNeg (aluLoadImmi x) = false := by
  have hlt : (aluLoadImmi x).toNat < 4096 := (toNat_aluLoadImmi x).trans_lt x.isLt
  exact BitVec.msb_eq_false_iff_two_mul_lt.mpr (by omega)

/-- Settles O44: the results are those of the word's own sum, difference and widening, read unsigned and signed. -/
theorem aluArithmeticIsModular : Obligations.AluArithmeticIsModular := by
  unfold Obligations.AluArithmeticIsModular
  intro ac mbr x
  exact ⟨BitVec.toNat_add ac mbr, toNat_aluSub ac mbr, BitVec.toInt_add ac mbr, BitVec.toInt_sub,
    toNat_aluLoadImmi x, acNeg_aluLoadImmi x⟩

end Sys2Proof.Machine
end

section
/-! PROOFS. The sequencer's positions (41_sequencer.md R184, R193 to R196), what a micro-op leaves of the control state, and the
invariant of R186 along micro-steps and host moves. -/

namespace Sys2Proof.Machine

/-! The decoder's lists (R196). -/

/-- Decode, IRfromMBR and StepEnd stand outside the lists, which hold what is special to an instruction. -/
theorem ne_of_mem_microOps {op : Opcode} {m : MicroOp} (h : m ∈ microOps op) :
    m ≠ .decode ∧ m ≠ .irFromMBR ∧ m ≠ .stepEnd := by
  have hall : ∀ m ∈ microOps op, m ≠ .decode ∧ m ≠ .irFromMBR ∧ m ≠ .stepEnd := by cases op <;> decide
  exact hall m h

theorem microOps_length_le (op : Opcode) : (microOps op).length ≤ 7 := by cases op <;> decide

theorem inputReq_mem_microOps {op : Opcode} : .inputReq ∈ microOps op ↔ op = .input := by cases op <;> decide

/-- The fetch and decode ask for no input and end no cycle; Decode is the last of the six. -/
theorem fetchDecodeOps_getElem? {u : Nat} {m : MicroOp} (h : fetchDecodeOps[u]? = some m) :
    m ≠ .inputReq ∧ m ≠ .stepEnd ∧ (m = .decode ↔ u = 5) := by
  have hall : ∀ u < 6, ∀ m ∈ fetchDecodeOps[u]?, m ≠ .inputReq ∧ m ≠ .stepEnd ∧ (m = .decode ↔ u = 5) := by decide
  exact hall u (List.getElem?_eq_some_iff.mp h).1 m h

/-- The micro-op at upc is one of the six of the fetch and decode, one of the decoded instruction's list, or its step-end. -/
theorem microOpAt_cases {s : State} {m : MicroOp} (h : microOpAt s = some m) :
    (s.upc.toNat < 6 ∧ fetchDecodeOps[s.upc.toNat]? = some m) ∨
      ∃ op, s.dec = some op ∧ 6 ≤ s.upc.toNat ∧
        ((microOps op)[s.upc.toNat - 6]? = some m ∨ (s.upc.toNat = 6 + (microOps op).length ∧ m = .stepEnd)) := by
  by_cases hfetch : s.upc.toNat < 6
  · exact .inl ⟨hfetch, by rwa [microOpAt_fetch hfetch] at h⟩
  · rw [microOpAt, if_neg hfetch] at h
    obtain ⟨op, hdec, hm⟩ := Option.bind_eq_some_iff.mp h
    refine .inr ⟨op, hdec, by omega, ?_⟩
    by_cases hlist : s.upc.toNat - 6 < (microOps op).length
    · exact .inl (by rwa [List.getElem?_append_left hlist] at hm)
    · rw [List.getElem?_append_right (by omega), List.getElem?_singleton] at hm
      obtain ⟨hindex, hend⟩ := Option.ite_none_right_eq_some.mp hm
      exact .inr ⟨by omega, (Option.some.inj hend).symm⟩

/-- A micro-op other than StepEnd stands below upc 13, so that upc advances without wrapping (R36). -/
theorem upc_lt_of_microOpAt {s : State} {m : MicroOp} (h : microOpAt s = some m) (hend : m ≠ .stepEnd) :
    s.upc.toNat < 13 := by
  rcases microOpAt_cases h with ⟨hfetch, -⟩ | ⟨op, -, -, hlist | ⟨-, hm⟩⟩
  · omega
  · have hindex := (List.getElem?_eq_some_iff.mp hlist).1
    have hlen := microOps_length_le op
    omega
  · exact absurd hm hend

theorem toNat_nextUpc_of_microOpAt {s : State} {m : MicroOp} (h : microOpAt s = some m) (hend : m ≠ .stepEnd) :
    (nextUpc m s.upc).toNat = s.upc.toNat + 1 := by
  have hlt := upc_lt_of_microOpAt h hend
  rw [nextUpc_of_ne hend]
  bv_omega

/-- A block that asks for input stands at the one position of Input's list (R310). -/
theorem position_of_inputReq {s : State} (h : microOpAt s = some .inputReq) : s.dec = some .input ∧ s.upc = 6 := by
  rcases microOpAt_cases h with ⟨-, hfetch⟩ | ⟨op, hdec, hge, hlist | ⟨-, hm⟩⟩
  · exact absurd rfl (fetchDecodeOps_getElem? hfetch).1
  · obtain rfl := inputReq_mem_microOps.mp (List.mem_of_getElem? hlist)
    have hindex : s.upc.toNat - 6 < 1 := (List.getElem?_eq_some_iff.mp hlist).1
    exact ⟨hdec, by bv_omega⟩
  · cases hm

/-- Every position of R186 has a micro-op. -/
theorem exists_microOpAt_of_positionOk {s : State} (h : s.positionOk) : ∃ m, microOpAt s = some m := by
  rcases h with hfetch | ⟨op, hdec, hge, hle⟩
  · have hlt : s.upc.toNat < fetchDecodeOps.length := Nat.lt_succ_of_le hfetch
    exact ⟨_, (microOpAt_fetch hlt).trans (List.getElem?_eq_getElem hlt)⟩
  · have hlt : s.upc.toNat - 6 < (microOps op ++ [MicroOp.stepEnd]).length := by
      rw [List.length_append, List.length_singleton]
      omega
    exact ⟨_, (microOpAt_execute hge hdec).trans (List.getElem?_eq_getElem hlt)⟩

/-! What a transfer leaves of the control state. -/

theorem transfer_dec {x : Addr} {m : MicroOp} (s : State) (h : m ≠ .decode) : (transfer x m s).state.dec = s.dec := by
  cases m with
  | decode => exact absurd rfl h
  | cmp | acOne | aluAdd | skipInc =>
    simp only [transfer]
    split <;> rfl
  | _ => rfl

theorem transfer_intr {x : Addr} {m : MicroOp} (s : State) (h : m ≠ .inputReq) : (transfer x m s).state.intr = s.intr := by
  cases m with
  | inputReq => exact absurd rfl h
  | decode | cmp | acOne | aluAdd | skipInc =>
    simp only [transfer]
    split <;> rfl
  | _ => rfl

theorem transfer_ir {x : Addr} {m : MicroOp} (s : State) (h : m ≠ .irFromMBR) : (transfer x m s).state.ir = s.ir := by
  cases m with
  | irFromMBR => exact absurd rfl h
  | decode | cmp | acOne | aluAdd | skipInc =>
    simp only [transfer]
    split <;> rfl
  | _ => rfl

/-- A micro-op that goes on has not touched the halted flag or the fault code (R341). -/
theorem transfer_go {x : Addr} {m : MicroOp} {s t : State} (h : transfer x m s = .go t) :
    t.halted = s.halted ∧ t.fault = s.fault := by
  cases m with
  | haltOp => cases h
  | decode | cmp | acOne | aluAdd | skipInc =>
    simp only [transfer] at h
    split at h <;> cases h <;> exact ⟨rfl, rfl⟩
  | _ =>
    cases h
    exact ⟨rfl, rfl⟩

theorem transfer_stop_halted {x : Addr} {m : MicroOp} {s t : State} (h : transfer x m s = .stop t) : t.halted = true := by
  rcases transfer_stop h with ⟨-, rfl⟩ | ⟨-, -, rfl⟩ | ⟨-, -, rfl⟩ <;> rfl

/-- A micro-op halts the block or leaves the halted flag and the fault code. -/
theorem transfer_halted_or_keeps (x : Addr) (m : MicroOp) (s : State) :
    (transfer x m s).state.halted = true ∨
      ((transfer x m s).state.halted = s.halted ∧ (transfer x m s).state.fault = s.fault) := by
  cases h : transfer x m s with
  | go t => exact .inr (transfer_go h)
  | stop t => exact .inl (transfer_stop_halted h)

theorem transfer_of_perform_go {x : Addr} {m : MicroOp} {s t : State} (h : perform x m s = .go t) :
    ∃ u, transfer x m s = .go u ∧ t = u.setUpc (nextUpc m s.upc) := by
  unfold perform at h
  split at h <;> cases h
  exact ⟨_, ‹_›, rfl⟩

theorem transfer_of_perform_stop {x : Addr} {m : MicroOp} {s t : State} (h : perform x m s = .stop t) :
    ∃ u, transfer x m s = .stop u ∧ t = u.setUpc (nextUpc m s.upc) := by
  unfold perform at h
  split at h <;> cases h
  exact ⟨_, ‹_›, rfl⟩

/-- Decode latches an entry or halts the block (R192). -/
theorem transfer_decode_dec (x : Addr) (s : State) :
    (∃ op, (transfer x .decode s).state.dec = some op) ∨ (transfer x .decode s).state.halted = true := by
  simp only [transfer]
  split
  · exact .inl ⟨_, rfl⟩
  · exact .inr rfl

/-! The invariant along a micro-op (R186). -/

/-- The next position: one on in the fetch, the first execute position after Decode, one on in the list, or 0. -/
theorem perform_positionOk (x : Addr) {s : State} {m : MicroOp} (h : microOpAt s = some m) :
    (perform x m s).state.positionOk ∨ (perform x m s).state.halted = true := by
  rw [perform_state]
  rcases microOpAt_cases h with ⟨hfetch, hm⟩ | ⟨op, hdec, hge, hlist | ⟨-, rfl⟩⟩
  · obtain ⟨-, hend, hdecode⟩ := fetchDecodeOps_getElem? hm
    have hnext := toNat_nextUpc_of_microOpAt h hend
    by_cases h5 : s.upc.toNat = 5
    · obtain rfl := hdecode.mpr h5
      rcases transfer_decode_dec x s with ⟨op, hop⟩ | hhalt
      · refine .inl (.inr ⟨op, hop, ?_, ?_⟩) <;> rw [State.setUpc_upc, hnext] <;> omega
      · exact .inr hhalt
    · refine .inl (.inl ?_)
      rw [State.setUpc_upc, hnext]
      omega
  · obtain ⟨hdecode, -, hend⟩ := ne_of_mem_microOps (List.mem_of_getElem? hlist)
    have hindex := (List.getElem?_eq_some_iff.mp hlist).1
    have hnext := toNat_nextUpc_of_microOpAt h hend
    refine .inl (.inr ⟨op, (transfer_dec s hdecode).trans hdec, ?_, ?_⟩) <;> rw [State.setUpc_upc, hnext] <;> omega
  · exact .inl (.inl (Nat.zero_le 5))

theorem perform_upc_le (x : Addr) {s : State} {m : MicroOp} (h : microOpAt s = some m) :
    (perform x m s).state.upc.toNat ≤ 13 := by
  rw [perform_state, State.setUpc_upc]
  by_cases hend : m = .stepEnd
  · subst hend
    exact Nat.zero_le 13
  · have hlt := upc_lt_of_microOpAt h hend
    rw [toNat_nextUpc_of_microOpAt h hend]
    omega

theorem perform_keeps_inv (x : Addr) {s : State} {m : MicroOp} (hs : s.Inv) (hrun : s.halted = false) (hidle : s.intr = .idle)
    (hm : microOpAt s = some m) : (perform x m s).state.Inv where
  mem := by
    rw [perform_state]
    exact transfer_mem_wf x m hs.mem
  upc := perform_upc_le x hm
  position := perform_positionOk x hm
  waiting := by
    rw [perform_state, State.setUpc_intr, State.setUpc_dec, State.setUpc_upc]
    intro hwait
    obtain rfl : m = .inputReq := by
      by_contra hne
      exact hwait ((transfer_intr s hne).trans hidle)
    obtain ⟨hdec, hupc⟩ := position_of_inputReq hm
    exact ⟨hdec, by rw [hupc]; rfl⟩
  haltedIdle := by
    rw [perform_state, State.setUpc_intr, State.setUpc_halted]
    intro hhalt
    have hne : m ≠ .inputReq := by
      rintro rfl
      exact Bool.noConfusion (hrun.symm.trans hhalt)
    rw [transfer_intr s hne, hidle]
  faultHalts := by
    rw [perform_state, State.setUpc_fault, State.setUpc_halted]
    intro hfault
    rcases transfer_halted_or_keeps x m s with hhalt | ⟨hkeep, hcode⟩
    · exact hhalt
    · rw [hcode] at hfault
      rw [hkeep, hs.faultHalts hfault]

/-- A transition that only moves data keeps the invariant: it leaves memory canonical and the control state alone, but that it
may end an input wait. -/
theorem State.Inv.of_data {s t : State} (hs : s.Inv) (hmem : t.mem.wf = true) (hupc : t.upc = s.upc) (hdec : t.dec = s.dec)
    (hhalted : t.halted = s.halted) (hfault : t.fault = s.fault) (hintr : s.intr = .idle → t.intr = .idle) : t.Inv where
  mem := hmem
  upc := by
    rw [hupc]
    exact hs.upc
  position := by
    rw [State.positionOk, hupc, hdec, hhalted]
    exact hs.position
  waiting hwait := by
    rw [hdec, hupc]
    exact hs.waiting fun hidle => hwait (hintr hidle)
  haltedIdle hhalt := hintr (hs.haltedIdle (hhalted ▸ hhalt))
  faultHalts hcode := by
    rw [hhalted]
    exact hs.faultHalts (hfault ▸ hcode)

theorem State.Inv.setInputs {s : State} (hs : s.Inv) (answers : List (Option Int)) : (s.setInputs answers).Inv :=
  hs.of_data hs.mem rfl rfl rfl rfl id

/-- R380: the control state after a reset is at rest, so that the memory is all the invariant asks about. -/
theorem resetRegisters_inv {s : State} (hmem : s.mem.wf = true) : (resetRegisters s).Inv where
  mem := hmem
  upc := Nat.zero_le 13
  position := .inl (.inl (Nat.zero_le 5))
  waiting hwait := absurd rfl hwait
  haltedIdle _ := rfl
  faultHalts hcode := absurd rfl hcode

/-- Settles O50: a progressing micro-step is an engine step of Input, which moves data, or the micro-op at upc. -/
theorem microStepKeepsInvariant : Obligations.MicroStepKeepsInvariant := by
  unfold Obligations.MicroStepKeepsInvariant
  intro s t d e hs h
  obtain ⟨hrun, ⟨v, hvalue, -, rfl, -⟩ | ⟨-, rfl, -⟩ | ⟨m, hidle, hm, rfl, -⟩⟩ := microStep_moved h
  · exact hs.of_data hs.mem rfl rfl rfl rfl fun hidle => Intr.noConfusion (hidle.symm.trans hvalue)
  · exact hs.of_data hs.mem rfl rfl rfl rfl fun _ => rfl
  · exact perform_keeps_inv s.operand hs hrun hidle hm

/-- Settles O49: the power-on state is a reset of itself. -/
theorem powerOnMeetsInvariant : Obligations.PowerOnMeetsInvariant := by
  unfold Obligations.PowerOnMeetsInvariant
  exact resetRegisters_inv reset_mem_wf

/-- Settles O52: the writes and the answer move data, and reset and load end in a reset. -/
theorem hostMoveKeepsInvariant : Obligations.HostMoveKeepsInvariant := by
  unfold Obligations.HostMoveKeepsInvariant
  intro a s t hs h
  rcases hostAct_next h with ⟨r, w, rfl⟩ | ⟨x, w, rfl⟩ | rfl | ⟨origin, program, hfits, rfl⟩ | ⟨d, rfl⟩
  · apply hs.of_data <;> simp [hs.mem]
  · exact hs.of_data (State.writeMem_wf hs.mem x w) rfl rfl rfl rfl id
  · exact resetRegisters_inv hs.mem
  · exact resetRegisters_inv (imageFrom_wf hfits)
  · exact hs.setInputs _

/-- The induction over a run, once: the invariant holds of every reachable state. -/
theorem Reachable.inv {s : State} (h : Reachable s) : s.Inv := by
  induction h with
  | powerOn => exact powerOnMeetsInvariant
  | micro _ hmoved ih => exact microStepKeepsInvariant _ _ _ _ ih hmoved
  | host _ hact ih => exact hostMoveKeepsInvariant _ _ _ ih hact

/-- Settles O53: what the invariant says of upc and of a pending input. -/
theorem reachableStatesAreInPosition : Obligations.ReachableStatesAreInPosition := by
  unfold Obligations.ReachableStatesAreInPosition
  exact fun s h => ⟨or_assoc.mp h.inv.position, h.inv.waiting⟩

end Sys2Proof.Machine
end

section
/-! PROOFS. One micro-step (41_sequencer.md R184 to R192): its equation in each state of the block, the six micro-steps of the fetch
and decode, and when the block stands still (R185, R345). -/

namespace Sys2Proof.Machine

/-! `microStep` case by case, in the order of R345. -/

theorem microStep_of_halted {s : State} (h : s.halted = true) (d : Option Int) : microStep s d = .noProgress := if_pos h

theorem microStep_needsValue {s : State} (hrun : s.halted = false) (hintr : s.intr = .needsValue) (v : Int) :
    microStep s (some v) = .moved (inputAccept v s) (writeEvent .input (.reg .inReg) s (inputAccept v s)) := by
  simp [microStep, hrun, hintr]

theorem microStep_needsLoad {s : State} (hrun : s.halted = false) (hintr : s.intr = .needsLoad) (d : Option Int) :
    microStep s d = .moved (inputLoad s) (writeEvent .registerTransfer (.reg .ac) s (inputLoad s)) := by
  simp [microStep, hrun, hintr]

theorem microStep_idle {s : State} {m : MicroOp} (hrun : s.halted = false) (hidle : s.intr = .idle)
    (hm : microOpAt s = some m) (d : Option Int) :
    microStep s d = .moved (perform s.operand m s).state (eventOf s.operand m s) := by
  simp [microStep, hrun, hidle, hm]

/-- R185, R345: no progress is for the halted block and for the one whose draw is not there. -/
theorem microStep_noProgress_iff {s : State} {d : Option Int} :
    microStep s d = .noProgress ↔ s.halted = true ∨ (s.intr = .needsValue ∧ d = none) := by
  cases hhalt : s.halted with
  | true => simp [microStep, hhalt]
  | false =>
    cases hintr : s.intr with
    | needsValue => cases d <;> simp [microStep, hhalt, hintr]
    | needsLoad => simp [microStep, hhalt, hintr]
    | idle => cases hm : microOpAt s <;> simp [microStep, hhalt, hintr, hm]

/-- A refusal is for an idle block without a micro-op at upc. -/
theorem microStep_refused {s : State} {d : Option Int} {r : Refusal} (h : microStep s d = .refused r) :
    s.halted = false ∧ s.intr = .idle ∧ microOpAt s = none := by
  unfold microStep at h
  split at h
  · cases h
  · split at h
    · split at h <;> cases h
    · cases h
    · split at h
      · cases h
      · exact ⟨by simpa using ‹¬ s.halted = true›, ‹_›, ‹_›⟩

/-- Settles O15: a running idle block of the invariant is in position, and a position has a micro-op. -/
theorem noProgressOnlyWhenHaltedOrBlocked : Obligations.NoProgressOnlyWhenHaltedOrBlocked := by
  unfold Obligations.NoProgressOnlyWhenHaltedOrBlocked
  refine fun s d hs => ⟨fun r h => ?_, microStep_noProgress_iff⟩
  obtain ⟨hrun, -, hnone⟩ := microStep_refused h
  rcases hs.position with hpos | hhalt
  · obtain ⟨m, hm⟩ := exists_microOpAt_of_positionOk hpos
    exact absurd (hnone.symm.trans hm) (Option.some_ne_none m).symm
  · exact Bool.noConfusion (hrun.symm.trans hhalt)

/-- Settles O16: in the two other states of intr the equation of `microStep` has no draw. -/
theorem drawReadOnlyWhenValueNeeded : Obligations.DrawReadOnlyWhenValueNeeded := by
  unfold Obligations.DrawReadOnlyWhenValueNeeded
  intro s d d' hintr
  unfold microStep
  cases h : s.intr with
  | needsValue => exact absurd h hintr
  | needsLoad => rfl
  | idle => rfl

/-- R42: of the host's moves, reset and load alone touch `halted`. -/
theorem hostAct_halted {a : HostAction} {s t : State} (h : hostAct a s = .next t) :
    t.halted = s.halted ∨ a = .resetRegisters ∨ ∃ origin program, a = .load origin program := by
  cases a with
  | writeReg code v =>
    simp only [hostAct, writeRegPort] at h
    split at h <;> cases h
    exact .inl (State.writeReg_halted s _ _)
  | writeMem addr v =>
    simp only [hostAct, writeMemPort] at h
    split at h <;> cases h
    exact .inl rfl
  | resetRegisters => exact .inr (.inl rfl)
  | load origin program => exact .inr (.inr ⟨origin, program, rfl⟩)
  | answerInput answer =>
    cases h
    exact .inl rfl

/-- Settles O17: `halted` is the first check of a micro-step, and a host move that clears it is a reset or a load. -/
theorem haltedBlockStandsStill : Obligations.HaltedBlockStandsStill := by
  unfold Obligations.HaltedBlockStandsStill
  refine fun s d hhalt => ⟨microStep_of_halted hhalt d, fun a t hact hrun => (hostAct_halted hact).resolve_left fun hkeep => ?_⟩
  exact Bool.noConfusion ((hrun.symm.trans hkeep).trans hhalt)

/-! The kind of a micro-op's event (R182, R216): its own, unless it halts the block. -/

theorem exists_selectedCond (x : Addr) : ∃ c, selectedCond x = some c :=
  ⟨_, by rw [← skipCondOperand_condOfOperand x, selectedCond_skipCondOperand]⟩

theorem eventOf_decode_none {x : Addr} {s : State} (h : opcodeOf s.ir = none) :
    (eventOf x .decode s).kind = .halt ∧ (eventOf x .decode s).payload = .halted .unsupportedOpcode := by
  simp [eventOf, kindAndPayload, h]

theorem kind_eventOf_of_go {x : Addr} {m : MicroOp} {s t : State} (h : perform x m s = .go t) :
    (eventOf x m s).kind = kindOf m := by
  cases m with
  | decode =>
    cases hop : opcodeOf s.ir with
    | none =>
      rw [perform_decode_none hop] at h
      cases h
    | some op => simp [eventOf, kindAndPayload, hop]
  | cmp =>
    obtain ⟨c, hc⟩ := exists_selectedCond x
    simp [eventOf, kindAndPayload, hc]
  | _ => rfl

theorem kind_eventOf_of_stop {x : Addr} {m : MicroOp} {s t : State} (h : perform x m s = .stop t) :
    (eventOf x m s).kind = .halt := by
  obtain ⟨u, hu, -⟩ := transfer_of_perform_stop h
  rcases transfer_stop hu with ⟨rfl, -⟩ | ⟨rfl, hop, -⟩ | ⟨rfl, hcond, -⟩
  · rfl
  · exact (eventOf_decode_none hop).1
  · rw [evalCond_eq_condHolds] at hcond
    cases hcond

/-! The fetch and the decode (R187 to R192). -/

theorem microOpAt_of_fetchDecodeOps {s : State} {u : BitVec 4} {m : MicroOp} (hupc : s.upc = u)
    (hm : fetchDecodeOps[u.toNat]? = some m) : microOpAt s = some m := by
  subst hupc
  rw [microOpAt_fetch (List.getElem?_eq_some_iff.mp hm).1, hm]

/-- The five fetch micro-steps together, from the start of a cycle. -/
theorem fetch_of_upc_zero {s : State} (h : s.upc = 0) :
    fetch s = { s with mar := s.pc, mbr := s.readMem s.pc, ir := s.readMem s.pc, pc := s.pc + 1, upc := 5 } := by
  simp [fetch, fetchOps, runOps, State.readMem, h]

/-- Settles O9: the equation of the five micro-steps. -/
theorem fetchLoadsWordAndIncrementsPC : Obligations.FetchLoadsWordAndIncrementsPC := by
  unfold Obligations.FetchLoadsWordAndIncrementsPC
  exact fun s h => fetch_of_upc_zero h

/-- Settles O11: the word fetched is the encoding, which decodes to the instruction itself. -/
theorem stepRunsTheInstructionAtPC : Obligations.StepRunsTheInstructionAtPC := by
  unfold Obligations.StepRunsTheInstructionAtPC
  intro s i hs hi hword
  obtain ⟨-, hupc, -⟩ := State.atBoundary_iff.mp hs
  have hdecode : decodeWord (fetch s).ir = i := by
    rw [fetch_ir, hword, decodeWord_encode, Instr.wellFormed_iff.mp hi]
  rw [step_of_boundary hs, hdecode, fetch_of_upc_zero hupc]

/-- Settles O10: the micro-op at each of the six positions, and what it leaves. -/
theorem fetchDecodeMicroSteps : Obligations.FetchDecodeMicroSteps := by
  unfold Obligations.FetchDecodeMicroSteps
  intro s d hrun hidle
  have moved {u : BitVec 4} {m : MicroOp} {t : State} (hupc : s.upc = u) (hm : fetchDecodeOps[u.toNat]? = some m)
      (ht : (perform s.operand m s).state = t) : microStep s d = .moved t (eventOf s.operand m s) :=
    ht ▸ microStep_idle hrun hidle (microOpAt_of_fetchDecodeOps hupc hm) d
  refine ⟨fun h => ?_, fun h => ?_, fun h => ?_, fun h => ?_, fun h => ?_, fun h hfield => ?_, fun h hfield => ?_⟩
  · exact ⟨_, moved (m := .stepStart) h rfl (by simp [h]), rfl, rfl⟩
  · exact ⟨_, moved (m := .marFromPC) h rfl (by simp [h]), rfl⟩
  · exact ⟨_, moved (m := .memRd) h rfl (by simp [h]), rfl⟩
  · exact ⟨_, moved (m := .irFromMBR) h rfl (by simp [h]), rfl⟩
  · exact ⟨_, moved (m := .pcInc) h rfl (by simp [h]), rfl⟩
  · cases hop : opcodeOf s.ir with
    | none => exact absurd ((opcodeOfField_eq_none _).mp hop) hfield
    | some op =>
      have hgo := perform_decode_some (x := s.operand) hop
      exact ⟨_, op, bits_of_opcodeOfField _ _ hop, moved (m := .decode) h rfl (by simp [hgo, h]),
        kind_eventOf_of_go hgo⟩
  · have hop : opcodeOf s.ir = none := (opcodeOfField_eq_none _).mpr hfield
    have hstop := perform_decode_none (x := s.operand) hop
    obtain ⟨hkind, hpayload⟩ := eventOf_decode_none (x := s.operand) hop
    exact ⟨_, moved (m := .decode) h rfl (by simp [hstop, h]), hkind, hpayload⟩

end Sys2Proof.Machine
end

section
/-! PROOFS. The loop of `step()` (41_sequencer.md R217): what it runs from an instruction boundary is the instruction's meaning
(R184, R193, R194), and where it stops from any state. -/

namespace Sys2Proof.Machine

/-! A tick in a running idle block draws nothing. -/

theorem spendDraw_of_not_asksInput {s : State} (h : s.asksInput = false) : s.spendDraw = s := by
  simp [State.spendDraw, h]

theorem asksInput_of_halted {s : State} (h : s.halted = true) : s.asksInput = false := by
  simp [State.asksInput, h]

theorem asksInput_of_idle {s : State} (h : s.intr = .idle) : s.asksInput = false := by
  simp [State.asksInput, h]

theorem tick_idle {s : State} {m : MicroOp} (hrun : s.halted = false) (hidle : s.intr = .idle) (hm : microOpAt s = some m) :
    tick s = .moved (perform s.operand m s).state (eventOf s.operand m s) := by
  rw [tick, spendDraw_of_not_asksInput (asksInput_of_idle hidle), microStep_idle hrun hidle hm]

theorem kindOf_eq_stepEnd {m : MicroOp} : kindOf m = .stepEnd ↔ m = .stepEnd := by cases m <;> decide

theorem kindOf_eq_halt {m : MicroOp} : kindOf m = .halt ↔ m = .haltOp := by cases m <;> decide

/-- A micro-op that goes on and is no StepEnd lets the loop go on. -/
theorem kind_eventOf_goes_on {x : Addr} {m : MicroOp} {s t : State} (h : perform x m s = .go t) (hend : m ≠ .stepEnd) :
    (eventOf x m s).kind ≠ .stepEnd ∧ (eventOf x m s).kind ≠ .halt := by
  rw [kind_eventOf_of_go h, Ne, Ne, kindOf_eq_stepEnd, kindOf_eq_halt]
  refine ⟨hend, ?_⟩
  rintro rfl
  rw [perform_haltOp] at h
  cases h

/-! One round of the loop. -/

theorem cycleLoop_moved {s t : State} {e : Event} (h : tick s = .moved t e) (hend : e.kind ≠ .stepEnd) (hhalt : e.kind ≠ .halt)
    (fuel : Nat) : cycleLoop (fuel + 1) s = (cycleLoop fuel t).succ := by
  simp [cycleLoop, h, hend, hhalt]

/-! The same in a running idle block, by the micro-op at upc. -/

section Round

variable {s t : State} {m : MicroOp} (hrun : s.halted = false) (hidle : s.intr = .idle)
include hrun hidle

theorem cycleLoop_go (hm : microOpAt s = some m) (hend : m ≠ .stepEnd) (hgo : perform s.operand m s = .go t) (fuel : Nat) :
    cycleLoop (fuel + 1) s = (cycleLoop fuel t).succ := by
  have htick := tick_idle hrun hidle hm
  rw [hgo, Flow.state_go] at htick
  obtain ⟨hkind, hhalt⟩ := kind_eventOf_goes_on hgo hend
  exact cycleLoop_moved htick hkind hhalt fuel

theorem cycleLoop_stop (hm : microOpAt s = some m) (hstop : perform s.operand m s = .stop t) (fuel : Nat) :
    cycleLoop (fuel + 1) s = .stopped 1 true t := by
  simp [cycleLoop, tick_idle hrun hidle hm, hstop, kind_eventOf_of_stop hstop]

theorem cycleLoop_stepEnd (hm : microOpAt s = some .stepEnd) (fuel : Nat) :
    cycleLoop (fuel + 1) s = .stopped 1 true (stepEnd s) := by
  have hkind : (eventOf s.operand .stepEnd s).kind = .stepEnd := rfl
  simp [cycleLoop, tick_idle hrun hidle hm, hkind, stepEnd, State.setUpc]

/-- One micro-step of the fetch or decode that goes on. -/
theorem cycleLoop_fetchDecode {u : BitVec 4} (hupc : s.upc = u) (hm : fetchDecodeOps[u.toNat]? = some m)
    (hgo : perform s.operand m s = .go t) (fuel : Nat) : cycleLoop (fuel + 1) s = (cycleLoop fuel t).succ :=
  cycleLoop_go hrun hidle (microOpAt_of_fetchDecodeOps hupc hm) (fetchDecodeOps_getElem? hm).2.1 hgo fuel

end Round

/-! The execute part: the loop runs the rest of the decoded instruction's list and its step-end. -/

/-- The block runs the instruction `op` and has the micro-ops `ops` of its list before it, at upc (R193, R196). -/
structure State.Executing (s : State) (op : Opcode) (ops : List MicroOp) : Prop where
  running : s.halted = false
  idle : s.intr = .idle
  dec : s.dec = some op
  rest : ∃ done, microOps op = done ++ ops ∧ s.upc.toNat = 6 + done.length

/-- What the end of an instruction makes of its list's run: a step-end, unless the block halted (R194). -/
def Flow.ended : Flow → State
  | .go t => stepEnd t
  | .stop t => t

/-- How many micro-steps a list and its step-end take: up to the first that halts the block (R194, R346). -/
def executeCount (x : Addr) : List MicroOp → State → Nat
  | [], _ => 1
  | m :: ops, s =>
    match perform x m s with
    | .go t => executeCount x ops t + 1
    | .stop _ => 1

theorem runInstr_eq_ended (op : Opcode) (ops : List MicroOp) (x : Addr) (s : State) :
    runInstr op ops x s = .next (runOps x ops (latch op s)).ended := by
  unfold runInstr
  cases runOps x ops (latch op s) <;> rfl

namespace State.Executing

variable {s t : State} {op : Opcode} {m : MicroOp} {ops : List MicroOp}

theorem microOpAt_cons (h : s.Executing op (m :: ops)) : microOpAt s = some m := by
  obtain ⟨done, hlist, hupc⟩ := h.rest
  have hindex : s.upc.toNat - 6 = done.length := by omega
  rw [microOpAt_execute (by omega) h.dec, hlist, hindex]
  simp

theorem microOpAt_nil (h : s.Executing op []) : microOpAt s = some .stepEnd := by
  obtain ⟨done, hlist, hupc⟩ := h.rest
  have hindex : s.upc.toNat - 6 = done.length := by omega
  rw [microOpAt_execute (by omega) h.dec, hlist, hindex]
  simp

theorem head_mem (h : s.Executing op (m :: ops)) : m ∈ microOps op := by
  obtain ⟨done, hlist, -⟩ := h.rest
  simp [hlist]

/-- A micro-op that goes on leaves the rest of the list before the block, and the live operand as it was. -/
theorem next (h : s.Executing op (m :: ops)) (hop : op ≠ .input) {x : Addr} (hgo : perform x m s = .go t) :
    t.Executing op ops ∧ t.operand = s.operand := by
  obtain ⟨hdecode, hir, hend⟩ := ne_of_mem_microOps h.head_mem
  have hinput : m ≠ .inputReq := by
    rintro rfl
    exact hop (inputReq_mem_microOps.mp h.head_mem)
  have hupc := toNat_nextUpc_of_microOpAt h.microOpAt_cons hend
  obtain ⟨u, hu, rfl⟩ := transfer_of_perform_go hgo
  have hstate : (transfer x m s).state = u := by rw [hu, Flow.state_go]
  refine ⟨⟨?_, ?_, ?_, ?_⟩, ?_⟩
  · exact (transfer_go hu).1.trans h.running
  · exact (hstate ▸ transfer_intr s hinput).trans h.idle
  · exact (hstate ▸ transfer_dec s hdecode).trans h.dec
  · obtain ⟨done, hlist, hdone⟩ := h.rest
    refine ⟨done ++ [m], by simp [hlist], ?_⟩
    rw [State.setUpc_upc, hupc, List.length_append, List.length_singleton]
    omega
  · exact congrArg operandField (hstate ▸ transfer_ir s hir)

/-- The loop from the middle of an instruction other than Input: the rest of its list, its end, and their number. -/
theorem cycleLoop_eq (h : s.Executing op ops) (hop : op ≠ .input) {fuel : Nat} (hfuel : ops.length < fuel) :
    cycleLoop fuel s = .stopped (executeCount s.operand ops s) true (runOps s.operand ops s).ended := by
  induction ops generalizing s fuel with
  | nil =>
    obtain ⟨fuel, rfl⟩ := Nat.exists_eq_succ_of_ne_zero (Nat.ne_zero_of_lt hfuel)
    exact cycleLoop_stepEnd h.running h.idle h.microOpAt_nil fuel
  | cons m ops ih =>
    obtain ⟨fuel, rfl⟩ := Nat.exists_eq_succ_of_ne_zero (Nat.ne_zero_of_lt hfuel)
    cases hp : perform s.operand m s with
    | stop t =>
      rw [cycleLoop_stop h.running h.idle h.microOpAt_cons hp, runOps_cons_stop ops hp, executeCount, hp, Flow.ended]
    | go t =>
      obtain ⟨ht, hoperand⟩ := h.next hop hp
      obtain ⟨-, -, hend⟩ := ne_of_mem_microOps h.head_mem
      rw [cycleLoop_go h.running h.idle h.microOpAt_cons hend hp, ih ht (Nat.lt_of_succ_lt_succ hfuel), hoperand,
        runOps_cons_go ops hp, executeCount, hp, CycleResult.succ]

end State.Executing

/-- Settles O56: the poked block has Load's whole list before it, with the new word's operand (decision D18). -/
theorem pokedInstructionRegisterChangesOperandOnly : Obligations.PokedInstructionRegisterChangesOperandOnly := by
  unfold Obligations.PokedInstructionRegisterChangesOperandOnly
  intro s w hrun hidle hupc hdec
  have hexec : (s.writeReg .ir w).Executing .load loadOps :=
    ⟨hrun, hidle, hdec, [], rfl, by simp [hupc]⟩
  rw [microCycle, hexec.cycleLoop_eq (by decide) (by decide)]
  simp [executeCount, loadOps, runOps, Flow.ended, stepEnd, State.operand, State.writeReg, State.setIR, State.setUpc,
    State.readMem]

/-! The fetch and the decode. -/

theorem CycleResult.iterate_succ_stopped (k n : Nat) (completed : Bool) (t : State) :
    CycleResult.succ^[k] (.stopped n completed t) = .stopped (n + k) completed t := by
  induction k with
  | zero => rfl
  | succ k ih => rw [Function.iterate_succ_apply', ih, CycleResult.succ, Nat.add_assoc]

/-- R187 to R191: the loop from an instruction boundary fetches. -/
theorem cycleLoop_fetch {s : State} (hs : s.atBoundary = true) (fuel : Nat) :
    cycleLoop (fuel + 5) s = CycleResult.succ^[5] (cycleLoop fuel (fetch s)) := by
  obtain ⟨hrun, hupc, hidle⟩ := State.atBoundary_iff.mp hs
  have atPC := cycleLoop_fetchDecode (t := { s with upc := 1 }) (m := .stepStart) hrun hidle hupc rfl (by simp [hupc])
  have atMAR := cycleLoop_fetchDecode (s := { s with upc := 1 }) (t := { s with mar := s.pc, upc := 2 }) (m := .marFromPC)
    hrun hidle rfl rfl (by simp)
  have atMBR := cycleLoop_fetchDecode (s := { s with mar := s.pc, upc := 2 })
    (t := { s with mar := s.pc, mbr := s.readMem s.pc, upc := 3 }) (m := .memRd) hrun hidle rfl rfl (by simp [State.readMem])
  have atIR := cycleLoop_fetchDecode (s := { s with mar := s.pc, mbr := s.readMem s.pc, upc := 3 })
    (t := { s with mar := s.pc, mbr := s.readMem s.pc, ir := s.readMem s.pc, upc := 4 }) (m := .irFromMBR) hrun hidle rfl rfl
    (by simp)
  have atNext := cycleLoop_fetchDecode (s := { s with mar := s.pc, mbr := s.readMem s.pc, ir := s.readMem s.pc, upc := 4 })
    (t := fetch s) (m := .pcInc) hrun hidle rfl rfl (by simp [fetch_of_upc_zero hupc])
  rw [atPC, atMAR, atMBR, atIR, atNext]
  rfl

/-- The fetched state is the Decode position of a running idle block. -/
theorem fetch_control {s : State} (hs : s.atBoundary = true) :
    (fetch s).halted = false ∧ (fetch s).intr = .idle ∧ (fetch s).upc = 5 := by
  obtain ⟨hrun, hupc, hidle⟩ := State.atBoundary_iff.mp hs
  rw [fetch_of_upc_zero hupc]
  exact ⟨hrun, hidle, rfl⟩

/-- R192: after the fetch, the Decode of a word with a table entry. -/
theorem cycleLoop_fetch_decode {s : State} {op : Opcode} (hs : s.atBoundary = true) (hop : opcodeOf (s.readMem s.pc) = some op)
    (fuel : Nat) : cycleLoop (fuel + 6) s = CycleResult.succ^[6] (cycleLoop fuel (latch op (fetch s))) := by
  obtain ⟨hrun, hidle, hupc⟩ := fetch_control hs
  have hgo : perform (fetch s).operand .decode (fetch s) = .go (latch op (fetch s)) := by
    rw [perform_decode_some (by rw [fetch_ir, hop]), hupc]
    rfl
  rw [cycleLoop_fetch hs (fuel + 1), cycleLoop_fetchDecode hrun hidle hupc rfl hgo]
  rfl

/-- R317: after the fetch, the Decode of a word without one ends the loop. -/
theorem cycleLoop_undefined {s : State} (hs : s.atBoundary = true) (hop : opcodeOf (s.readMem s.pc) = none) (fuel : Nat) :
    cycleLoop (fuel + 6) s = .stopped 6 true { fetch s with halted := true, fault := .unsupportedOpcode, upc := 6 } := by
  obtain ⟨hrun, hidle, hupc⟩ := fetch_control hs
  have hstop := perform_decode_none (x := (fetch s).operand) (s := fetch s) (by rw [fetch_ir, hop])
  rw [cycleLoop_fetch hs (fuel + 1), cycleLoop_stop hrun hidle (microOpAt_of_fetchDecodeOps hupc rfl) hstop, hupc]
  rfl

theorem latch_executing {s : State} (op : Opcode) (hs : s.atBoundary = true) :
    (latch op (fetch s)).Executing op (microOps op) := by
  obtain ⟨hrun, hidle, -⟩ := fetch_control hs
  exact ⟨hrun, hidle, rfl, [], rfl, rfl⟩

/-- The loop of an instruction other than Input, from its boundary. -/
theorem microCycle_of_opcode {s : State} {op : Opcode} (hs : s.atBoundary = true) (hop : opcodeOf (s.readMem s.pc) = some op)
    (hinput : op ≠ .input) :
    microCycle s = .stopped (executeCount (fetch s).operand (microOps op) (latch op (fetch s)) + 6) true
      (runOps (fetch s).operand (microOps op) (latch op (fetch s))).ended := by
  have hlen := microOps_length_le op
  rw [microCycle, cycleFuel, cycleLoop_fetch_decode hs hop 42, (latch_executing op hs).cycleLoop_eq hinput (by omega),
    CycleResult.iterate_succ_stopped]
  rfl

/-! Input (R310 to R313). -/

theorem State.asksInput_iff {s : State} : s.asksInput = true ↔ s.halted = false ∧ s.intr = .needsValue := by
  simp [State.asksInput]

theorem spendDraw_of_asksInput {s : State} (h : s.asksInput = true) : s.spendDraw = s.setInputs s.inputs.tail := if_pos h

theorem inputs_of_nextDraw {s : State} {v : Int} (h : s.nextDraw = some v) : s.inputs = some v :: s.inputs.tail := by
  obtain ⟨rest, hinputs⟩ := List.head?_eq_some_iff.mp (Option.join_eq_some_iff.mp h)
  rw [hinputs, List.tail_cons]

theorem attemptInput_of_no_draw {s : State} (h : s.nextDraw = none) : attemptInput s = s.setInputs s.inputs.tail := by
  rcases attemptInput_cases s with ⟨hinputs, hattempt⟩ | ⟨rest, hinputs, hattempt⟩ | ⟨v, rest, hinputs, -⟩
  · rw [hattempt, hinputs, List.tail_nil, ← hinputs]
    rfl
  · rw [hattempt, hinputs, List.tail_cons]
  · rw [State.nextDraw, hinputs] at h
    cases h

theorem attemptInput_of_draw {s : State} {v : Int} (h : s.nextDraw = some v) :
    attemptInput s = stepEnd (inputLoad (inputAccept v (s.setInputs s.inputs.tail))) := by
  rw [attemptInput, inputs_of_nextDraw h, List.tail_cons]

/-- R311: a usable answer is accepted. -/
theorem tick_answered {s : State} {v : Int} (hasks : s.asksInput = true) (hdraw : s.nextDraw = some v) :
    tick s = .moved (inputAccept v (s.setInputs s.inputs.tail))
      (writeEvent .input (.reg .inReg) (s.setInputs s.inputs.tail) (inputAccept v (s.setInputs s.inputs.tail))) := by
  obtain ⟨hrun, hintr⟩ := State.asksInput_iff.mp hasks
  rw [tick, spendDraw_of_asksInput hasks, hdraw, microStep_needsValue (s := s.setInputs s.inputs.tail) hrun hintr]

/-- R313: without one the block makes no progress, and the attempt is spent. -/
theorem tick_blocked {s : State} (hasks : s.asksInput = true) (hdraw : s.nextDraw = none) :
    tick s = .blocked (s.setInputs s.inputs.tail) := by
  have hintr := (State.asksInput_iff.mp hasks).2
  have hblocked : microStep (s.setInputs s.inputs.tail) none = .noProgress := microStep_noProgress_iff.mpr (.inr ⟨hintr, rfl⟩)
  rw [tick, spendDraw_of_asksInput hasks, hdraw, hblocked]

/-- R312: an accepted value is loaded. -/
theorem tick_needsLoad {s : State} (hrun : s.halted = false) (hintr : s.intr = .needsLoad) :
    tick s = .moved (inputLoad s) (writeEvent .registerTransfer (.reg .ac) s (inputLoad s)) := by
  rw [tick, spendDraw_of_not_asksInput (by simp [State.asksInput, hintr]), microStep_needsLoad hrun hintr]

/-- A waiting Input without a usable answer stops the loop at once. -/
theorem cycleLoop_blocked {s : State} (hasks : s.asksInput = true) (hdraw : s.nextDraw = none) (fuel : Nat) :
    cycleLoop (fuel + 1) s = .stopped 0 false (attemptInput s) := by
  rw [cycleLoop, tick_blocked hasks hdraw, attemptInput_of_no_draw hdraw]

/-- An Input whose value is accepted ends in two micro-steps: InputLoad and the step-end. -/
theorem cycleLoop_needsLoad {s : State} (hrun : s.halted = false) (hintr : s.intr = .needsLoad) (hdec : s.dec = some .input)
    (hupc : s.upc = 7) (fuel : Nat) : cycleLoop (fuel + 2) s = .stopped 2 true (stepEnd (inputLoad s)) := by
  have hend : microOpAt (inputLoad s) = some .stepEnd := by
    rw [microOpAt_execute (s := inputLoad s) (op := .input) (by simp [inputLoad, hupc]) hdec]
    simp [inputLoad, hupc, microOps, inputOps]
  rw [cycleLoop_moved (tick_needsLoad hrun hintr) (by simp [writeEvent]) (by simp [writeEvent]),
    cycleLoop_stepEnd (s := inputLoad s) hrun rfl hend, CycleResult.succ]

/-- A waiting Input takes a usable answer in three micro-steps. -/
theorem cycleLoop_answered {s : State} {v : Int} (hasks : s.asksInput = true) (hdec : s.dec = some .input) (hupc : s.upc = 7)
    (hdraw : s.nextDraw = some v) (fuel : Nat) : cycleLoop (fuel + 3) s = .stopped 3 true (attemptInput s) := by
  have hrun := (State.asksInput_iff.mp hasks).1
  rw [cycleLoop_moved (tick_answered hasks hdraw) (by simp [writeEvent]) (by simp [writeEvent]),
    cycleLoop_needsLoad (s := inputAccept v (s.setInputs s.inputs.tail)) hrun rfl hdec hupc, attemptInput_of_draw hdraw,
    CycleResult.succ]

/-- The loop of a waiting Input makes the attempt that its meaning makes. -/
theorem cycleLoop_attempt {s : State} (hasks : s.asksInput = true) (hdec : s.dec = some .input) (hupc : s.upc = 7)
    (fuel : Nat) : ∃ n, cycleLoop (fuel + 3) s = .stopped n (!(attemptInput s).isWaiting) (attemptInput s) := by
  cases hdraw : s.nextDraw with
  | none =>
    have hwaiting : (attemptInput s).isWaiting = true := by
      rw [attemptInput_of_no_draw hdraw]
      exact hasks
    exact ⟨0, by rw [cycleLoop_blocked hasks hdraw, hwaiting, Bool.not_true]⟩
  | some v =>
    have hdone : (attemptInput s).isWaiting = false := by
      rw [attemptInput_of_draw hdraw]
      simp [State.isWaiting, stepEnd, inputLoad]
    exact ⟨3, by rw [cycleLoop_answered hasks hdec hupc hdraw, hdone, Bool.not_false]⟩

/-- The loop of an Input, from its boundary: the request, and then the attempt, as in its meaning. -/
theorem microCycle_of_input {s : State} (hs : s.atBoundary = true) (hop : opcodeOf (s.readMem s.pc) = some .input) (x : Addr) :
    ∃ n t, microCycle s = .stopped n (!t.isWaiting) t ∧ exec (.input x) (fetch s) = .next t := by
  have hexec := latch_executing .input hs
  have hrequest := cycleLoop_go hexec.running hexec.idle hexec.microOpAt_cons (by decide) (perform_inputReq _ _) 41
  have hasks : State.asksInput { fetch s with dec := some .input, intr := .needsValue, upc := 7 } = true :=
    State.asksInput_iff.mpr ⟨(fetch_control hs).1, rfl⟩
  obtain ⟨n, hattempt⟩ := cycleLoop_attempt hasks rfl rfl 38
  refine ⟨n + 7, _, ?_, exec_input x (fetch s)⟩
  rw [microCycle, cycleFuel, cycleLoop_fetch_decode hs hop 42, hrequest]
  exact (congrArg (CycleResult.succ^[7]) hattempt).trans (CycleResult.iterate_succ_stopped 7 n _ _)

/-! Where the loop stops, from any state (R217). -/

/-- An upper bound on the micro-steps before a step-end: three for each position left, and the engine steps of a pending input. -/
def stepsLeft (s : State) : Nat :=
  3 * (15 - s.upc.toNat) +
    match s.intr with
    | .idle => 0
    | .needsLoad => 1
    | .needsValue => 2

theorem stepsLeft_lt_cycleFuel (s : State) : stepsLeft s < cycleFuel := by
  unfold stepsLeft cycleFuel
  split <;> omega

/-- How one round ends: at a step-end, with a halt, or with less to do. -/
theorem microStep_moved_ends {s t : State} {d : Option Int} {e : Event} (h : microStep s d = .moved t e) :
    (e.kind = .stepEnd ∧ t.atBoundary = true) ∨ (e.kind = .halt ∧ t.halted = true) ∨
      (e.kind ≠ .stepEnd ∧ e.kind ≠ .halt ∧ stepsLeft t < stepsLeft s) := by
  obtain ⟨hrun, ⟨v, hvalue, -, rfl, rfl⟩ | ⟨hload, rfl, rfl⟩ | ⟨m, hidle, hm, rfl, rfl⟩⟩ := microStep_moved h
  · exact .inr (.inr ⟨by simp [writeEvent], by simp [writeEvent], by simp [stepsLeft, inputAccept, hvalue]⟩)
  · exact .inr (.inr ⟨by simp [writeEvent], by simp [writeEvent], by simp [stepsLeft, inputLoad, hload]⟩)
  · cases hp : perform s.operand m s with
    | stop t =>
      obtain ⟨u, hu, rfl⟩ := transfer_of_perform_stop hp
      exact .inr (.inl ⟨kind_eventOf_of_stop hp, (transfer_stop_halted hu :)⟩)
    | go t =>
      by_cases hend : m = .stepEnd
      · subst hend
        cases hp
        exact .inl ⟨rfl, State.atBoundary_iff.mpr ⟨hrun, rfl, hidle⟩⟩
      · obtain ⟨hkind, hhalt⟩ := kind_eventOf_goes_on hp hend
        have hlt := upc_lt_of_microOpAt hm hend
        have hupc : t.upc.toNat = s.upc.toNat + 1 := by
          obtain ⟨u, -, rfl⟩ := transfer_of_perform_go hp
          exact toNat_nextUpc_of_microOpAt hm hend
        refine .inr (.inr ⟨hkind, hhalt, ?_⟩)
        rw [Flow.state_go, stepsLeft, stepsLeft, hidle, hupc]
        split <;> omega

/-- The first round of a loop that ends in a result: it makes no progress, or its micro-step is the last, or the loop goes on. -/
theorem cycleLoop_succ_cases {fuel n : Nat} {completed : Bool} {s t : State}
    (h : cycleLoop (fuel + 1) s = .stopped n completed t) :
    (completed = false ∧ microStep s.spendDraw s.nextDraw = .noProgress ∧ t = s.spendDraw) ∨
      ∃ u e, microStep s.spendDraw s.nextDraw = .moved u e ∧
        ((completed = true ∧ (e.kind = .stepEnd ∨ e.kind = .halt) ∧ t = u) ∨
          (e.kind ≠ .stepEnd ∧ e.kind ≠ .halt ∧ ∃ k, cycleLoop fuel u = .stopped k completed t)) := by
  cases hstep : microStep s.spendDraw s.nextDraw with
  | noProgress =>
    simp only [cycleLoop, tick, hstep] at h
    cases h
    exact .inl ⟨rfl, rfl, rfl⟩
  | refused r =>
    simp only [cycleLoop, tick, hstep] at h
    cases h
  | moved u e =>
    refine .inr ⟨u, e, rfl, ?_⟩
    simp only [cycleLoop, tick, hstep] at h
    by_cases hlast : e.kind = .stepEnd ∨ e.kind = .halt
    · simp only [Bool.or_eq_true, beq_iff_eq, hlast, if_true] at h
      cases h
      exact .inl ⟨rfl, hlast, rfl⟩
    · obtain ⟨hend, hhalt⟩ := not_or.mp hlast
      simp only [Bool.or_eq_true, beq_iff_eq, hlast, if_false] at h
      cases hloop : cycleLoop fuel u with
      | refused r => simp [hloop, CycleResult.succ] at h
      | stopped k completed' t' =>
        rw [hloop] at h
        cases h
        exact .inr ⟨hend, hhalt, k, rfl⟩

theorem State.Inv.spendDraw {s : State} (hs : s.Inv) : s.spendDraw.Inv := by
  unfold State.spendDraw
  split
  · exact hs.setInputs _
  · exact hs

theorem stepsLeft_spendDraw (s : State) : stepsLeft s.spendDraw = stepsLeft s := by
  unfold State.spendDraw
  split <;> rfl

/-- Every micro-step of the loop keeps the invariant, and so does spending an answer. -/
theorem cycleLoop_keeps_inv {fuel n : Nat} {completed : Bool} {s t : State} (hs : s.Inv)
    (h : cycleLoop fuel s = .stopped n completed t) : t.Inv := by
  induction fuel generalizing s n with
  | zero =>
    cases h
    exact hs
  | succ fuel ih =>
    rcases cycleLoop_succ_cases h with ⟨-, -, rfl⟩ | ⟨u, e, hmoved, hlast⟩
    · exact hs.spendDraw
    · have hu : u.Inv := microStepKeepsInvariant _ _ _ _ hs.spendDraw hmoved
      rcases hlast with ⟨-, -, rfl⟩ | ⟨-, -, k, hloop⟩
      · exact hu
      · exact ih hu hloop

/-- With fuel for what is left, the loop says completed at a boundary or a halt, and not completed when halted or waiting. -/
theorem cycleLoop_stopped {fuel n : Nat} {completed : Bool} {s t : State} (hfuel : stepsLeft s < fuel)
    (h : cycleLoop fuel s = .stopped n completed t) :
    (completed = true ∧ (t.atBoundary = true ∨ t.halted = true)) ∨
      (completed = false ∧ (t.halted = true ∨ t.isWaiting = true)) := by
  induction fuel generalizing s n with
  | zero => omega
  | succ fuel ih =>
    rcases cycleLoop_succ_cases h with ⟨rfl, hstuck, rfl⟩ | ⟨u, e, hmoved, hlast⟩
    · refine .inr ⟨rfl, ?_⟩
      cases hhalt : s.spendDraw.halted with
      | true => exact .inl rfl
      | false =>
        rcases microStep_noProgress_iff.mp hstuck with htrue | ⟨hintr, -⟩
        · exact .inl (hhalt ▸ htrue)
        · exact .inr (by simp [State.isWaiting, hhalt, hintr])
    · rcases hlast with ⟨rfl, hkind, rfl⟩ | ⟨hend, hhalt, k, hloop⟩
      · refine .inl ⟨rfl, ?_⟩
        rcases microStep_moved_ends hmoved with ⟨-, hboundary⟩ | ⟨-, hhalted⟩ | ⟨hend, hhalt, -⟩
        · exact .inl hboundary
        · exact .inr hhalted
        · exact absurd hkind (not_or.mpr ⟨hend, hhalt⟩)
      · rcases microStep_moved_ends hmoved with ⟨hkind, -⟩ | ⟨hkind, -⟩ | ⟨-, -, hless⟩
        · exact absurd hkind hend
        · exact absurd hkind hhalt
        · rw [stepsLeft_spendDraw] at hless
          exact ih (by omega) hloop

theorem microCycle_stopped {n : Nat} {completed : Bool} {s t : State} (h : microCycle s = .stopped n completed t) :
    (completed = true ∧ (t.atBoundary = true ∨ t.halted = true)) ∨
      (completed = false ∧ (t.halted = true ∨ t.isWaiting = true)) :=
  cycleLoop_stopped (stepsLeft_lt_cycleFuel s) h

theorem isWaiting_of_boundary_or_halted {t : State} (h : t.atBoundary = true ∨ t.halted = true) : t.isWaiting = false := by
  rcases h with hboundary | hhalt
  · simp [State.isWaiting, (State.atBoundary_iff.mp hboundary).2.2]
  · simp [State.isWaiting, hhalt]

/-! The meanings that `step` dispatches to, and the loop. -/

/-- Every entry but Input runs its list of the decoder's table (R196). -/
theorem exec_instrOf {op : Opcode} (h : op ≠ .input) (x : Addr) (s : State) :
    exec (instrOf op x) s = runInstr op (microOps op) x s := by
  cases op with
  | input => exact absurd rfl h
  | skipCond => rw [instrOf, exec, execSkipCond, skipCondOperand_condOfOperand, microOps]
  | _ => rfl

/-- From an instruction boundary the loop stops in the state that step answers. -/
theorem microCycle_of_boundary {s : State} (hs : s.atBoundary = true) :
    ∃ n completed t, microCycle s = .stopped n completed t ∧ step s = .next t ∧ completed = !t.isWaiting := by
  have hcompleted {n : Nat} {t : State} (h : microCycle s = .stopped n true t) : true = !t.isWaiting := by
    rcases microCycle_stopped h with ⟨-, hstop⟩ | ⟨hfalse, -⟩
    · rw [isWaiting_of_boundary_or_halted hstop, Bool.not_false]
    · cases hfalse
  have hstep := step_of_boundary hs
  cases hop : opcodeOf (s.readMem s.pc) with
  | none =>
    rw [decodeWord_of_none (by rw [fetch_ir, hop]), exec_undefinedOpcode0xF] at hstep
    have hloop := cycleLoop_undefined hs hop 42
    exact ⟨_, _, _, hloop, hstep, hcompleted hloop⟩
  | some op =>
    rw [decodeWord_of_some (by rw [fetch_ir, hop])] at hstep
    by_cases hinput : op = .input
    · subst hinput
      obtain ⟨n, t, hloop, hexec⟩ := microCycle_of_input hs hop (operandField (fetch s).ir)
      exact ⟨n, _, t, hloop, hstep.trans hexec, rfl⟩
    · rw [exec_instrOf hinput, runInstr_eq_ended] at hstep
      have hloop := microCycle_of_opcode hs hop hinput
      exact ⟨_, _, _, hloop, hstep, hcompleted hloop⟩

/-- Settles O12: the loop from a boundary, by the three kinds of instruction: opcode 0xF, Input, and a list of the table. -/
theorem stepIsTheMicroStepLoop : Obligations.StepIsTheMicroStepLoop := by
  unfold Obligations.StepIsTheMicroStepLoop
  exact fun s hs => microCycle_of_boundary hs

/-- A step from any state is a loop: at a boundary by what the meanings leave, elsewhere by definition. -/
theorem microCycle_of_step {s t : State} (h : step s = .next t) : ∃ n completed, microCycle s = .stopped n completed t := by
  cases hs : s.atBoundary with
  | true =>
    obtain ⟨n, completed, u, hloop, hstep, -⟩ := microCycle_of_boundary hs
    obtain rfl : u = t := Host.Outcome.next.inj (hstep.symm.trans h)
    exact ⟨n, completed, hloop⟩
  | false =>
    rw [step_of_not_boundary hs, resume] at h
    cases hloop : microCycle s with
    | refused r =>
      rw [hloop] at h
      cases h
    | stopped n completed u =>
      rw [hloop] at h
      cases h
      exact ⟨n, completed, rfl⟩

/-- Settles O51: a step is a loop of micro-steps, each of which keeps the invariant. -/
theorem stepKeepsInvariant : Obligations.StepKeepsInvariant := by
  unfold Obligations.StepKeepsInvariant
  intro s t hs h
  obtain ⟨n, completed, hloop⟩ := microCycle_of_step h
  exact cycleLoop_keeps_inv hs hloop

/-- D28: a step of a halted block. -/
theorem step_of_halted {s : State} (h : s.halted = true) : step s = .next s := by
  have hloop : microCycle s = .stopped 0 false s := by
    rw [microCycle, cycleFuel, cycleLoop, tick, spendDraw_of_not_asksInput (asksInput_of_halted h), microStep_of_halted h]
  rw [step_of_not_boundary (by simp [State.atBoundary, h]), resume, hloop]

theorem run_of_halted {s : State} (h : s.halted = true) (calls : Nat) : run calls s = .next s := by
  cases calls with
  | zero => rfl
  | succ calls => exact if_pos h

/-- Settles O14: a step is a loop, which has fuel for every state. -/
theorem stepStopsAtBoundaryHaltOrWait : Obligations.StepStopsAtBoundaryHaltOrWait := by
  unfold Obligations.StepStopsAtBoundaryHaltOrWait
  refine ⟨fun s t h => ?_, fun s calls h => ⟨step_of_halted h, run_of_halted h calls⟩⟩
  obtain ⟨n, completed, hloop⟩ := microCycle_of_step h
  rcases microCycle_stopped hloop with ⟨-, hboundary | hhalt⟩ | ⟨-, hhalt | hwait⟩
  · exact .inl hboundary
  · exact .inr (.inl hhalt)
  · exact .inr (.inl hhalt)
  · exact .inr (.inr hwait)

end Sys2Proof.Machine
end

section
/-! PROOFS. The trace (41_sequencer.md R216): an event is enough to rebuild the state before its micro-step
(95_test_vectors.md S6). -/

namespace Sys2Proof.Machine

/-- A 12-bit value survives the widening to a word (R32). -/
@[simp] theorem low12_zext16 (x : Addr) : low12 (zext16 x) = x := by
  rw [low12, zext16, BitVec.setWidth_setWidth_of_le x (by decide), BitVec.setWidth_eq]

/-- Writing the old value back undoes a write of a register or a memory word. -/
theorem writeDest_readDest_writeDest {s : State} (hmem : s.mem.wf = true) (d : Dest) (v : Word) :
    (s.writeDest d v).writeDest d (s.readDest d) = s := by
  cases d with
  | reg r => cases r <;> simp [State.writeDest, State.readDest, State.writeReg, State.readReg, State.setAC, State.setIR,
      State.setMBR, State.setPC, State.setMAR, State.setIN, State.setOUT]
  | mem a =>
    simp [State.writeDest, State.readDest, State.writeMem, State.setMem, State.readMem, Memory.write_read_back hmem]

theorem setPC_eq_writeDest (s : State) (v : Addr) : s.setPC v = s.writeDest (.reg .pc) (zext16 v) := by
  simp [State.writeDest, State.writeReg]

theorem setMAR_eq_writeDest (s : State) (v : Addr) : s.setMAR v = s.writeDest (.reg .mar) (zext16 v) := by
  simp [State.writeDest, State.writeReg]

/-- The micro-ops that write more than a register or a memory word. -/
def MicroOp.writesBesideDest : MicroOp → Bool
  | .decode | .cmp | .outFromAC | .inputReq | .haltOp => true
  | _ => false

/-- Every other micro-op writes the destination of its event, or nothing (R182). -/
theorem transfer_writes (x : Addr) {m : MicroOp} (s : State) (h : m.writesBesideDest = false) :
    (∃ d v, destOf m s = some d ∧ transfer x m s = .go (s.writeDest d v)) ∨ (destOf m s = none ∧ transfer x m s = .go s) := by
  cases m with
  | decode | cmp | outFromAC | inputReq | haltOp => cases h
  | stepStart | stepEnd => exact .inr ⟨rfl, rfl⟩
  | marFromPC | marFromIR => exact .inl ⟨_, _, rfl, congrArg Flow.go (setMAR_eq_writeDest s _)⟩
  | pcInc | pcFromIR | pcFromAC => exact .inl ⟨_, _, rfl, congrArg Flow.go (setPC_eq_writeDest s _)⟩
  | acOne | aluAdd =>
    cases hkeeps : s.jnsKeepsAC with
    | true => exact .inr (by simp [destOf, transfer, hkeeps])
    | false => exact .inl ⟨.reg .ac, _, by simp [destOf, hkeeps], by simp [transfer, hkeeps]; rfl⟩
  | skipInc =>
    cases htaken : s.cmp with
    | true => exact .inl ⟨.reg .pc, zext16 (s.pc + 1), by simp [destOf, htaken], by simp [transfer, htaken, setPC_eq_writeDest]⟩
    | false => exact .inr (by simp [destOf, transfer, htaken])
  | memRd | irFromMBR | marFromMBR | mbrFromAC | mbrFromPC | mbrFromIR | memWr | acFromMBR | pcFromMBR | aluSub | aluLoadImmi =>
    exact .inl ⟨_, _, rfl, rfl⟩

/-- The event of such a micro-op names no control state and no output. -/
theorem restore_of_writes (x : Addr) {m : MicroOp} (s t : State) (h : m.writesBesideDest = false) :
    restoreControl (eventOf x m s).payload t = t ∧ restoreOutputs (eventOf x m s).kind t = t := by
  cases m with
  | decode | cmp | outFromAC | inputReq | haltOp => cases h
  | _ => exact ⟨rfl, rfl⟩

/-- Rewinding a micro-op puts back upc and intr, and then what its transfer did. -/
theorem rewind_perform (x : Addr) (m : MicroOp) (s : State) :
    rewind (eventOf x m s) (perform x m s).state =
      restoreOutputs (eventOf x m s).kind (restoreControl (eventOf x m s).payload
        (restoreWritten ((destOf m s).map fun d => writtenAt d s (transfer x m s).state)
          ((transfer x m s).state.setIntr s.intr))) := by
  have hupc : ((perform x m s).state.setUpc s.upc).setIntr s.intr = (transfer x m s).state.setIntr s.intr := by
    rw [perform_state, ← transfer_upc x m s]
    rfl
  rw [rewind, ← hupc]
  rfl

/-- R341: a halt is undone in a block that ran without a fault. -/
theorem setFault_setHalted_of_running {s : State} (hrun : s.halted = false) (hfault : s.fault = .none) :
    (s.setHalted false).setFault .none = s := by
  rw [← hrun, ← hfault]
  rfl

/-- A micro-op of a running block is rewound by its event. -/
theorem rewind_eventOf (x : Addr) (m : MicroOp) {s : State} (hmem : s.mem.wf = true) (hrun : s.halted = false)
    (hfault : s.fault = .none) : rewind (eventOf x m s) (perform x m s).state = s := by
  have hhalt := setFault_setHalted_of_running hrun hfault
  rw [rewind_perform]
  cases hm : m.writesBesideDest with
  | false =>
    have hinput : m ≠ .inputReq := by
      rintro rfl
      cases hm
    have hintr : (transfer x m s).state.setIntr s.intr = (transfer x m s).state := by
      rw [← transfer_intr (x := x) s hinput]
      rfl
    obtain ⟨hcontrol, houtputs⟩ := restore_of_writes x s s hm
    rcases transfer_writes x s hm with ⟨d, v, hdest, htransfer⟩ | ⟨hdest, htransfer⟩
    · have hback : restoreWritten (some (writtenAt d s (s.writeDest d v))) (s.writeDest d v) = s :=
        writeDest_readDest_writeDest hmem d v
      rw [hintr, hdest, htransfer, Flow.state_go, Option.map_some, hback, hcontrol, houtputs]
    · rw [hintr, hdest, htransfer, Flow.state_go, Option.map_none, restoreWritten, hcontrol, houtputs]
  | true =>
    cases m with
    | decode =>
      cases hop : opcodeOf s.ir with
      | some op =>
        simp only [eventOf, kindAndPayload, hop, transfer]
        rfl
      | none =>
        simp only [eventOf, kindAndPayload, hop, transfer]
        exact hhalt
    | cmp =>
      obtain ⟨c, hc⟩ := exists_selectedCond x
      simp only [eventOf, kindAndPayload, hc, transfer, evalCond, Option.map_some]
      rfl
    | outFromAC =>
      have hlast : s.setOutputs (s.outputs ++ [s.ac]).dropLast = s := by
        rw [List.dropLast_concat]
        rfl
      exact hlast
    | inputReq => rfl
    | haltOp => exact hhalt
    | _ => cases hm

/-- S6: the state before a progressing micro-step, from its event and the state after it. -/
theorem rewind_microStep {s t : State} {d : Option Int} {e : Event} (hs : s.Inv) (h : microStep s d = .moved t e) :
    rewind e t = s := by
  obtain ⟨hrun, ⟨v, -, -, rfl, rfl⟩ | ⟨-, rfl, rfl⟩ | ⟨m, -, -, rfl, rfl⟩⟩ := microStep_moved h
  · rfl
  · rfl
  · have hfault : s.fault = .none := by
      by_contra hcode
      exact Bool.noConfusion (hrun.symm.trans (hs.faultHalts hcode))
    exact rewind_eventOf s.operand m hs.mem hrun hfault

/-- Settles O57, by induction on the draws: the last event is undone first. -/
theorem traceRewindsRun : Obligations.TraceRewindsRun := by
  unfold Obligations.TraceRewindsRun
  intro ds
  induction ds with
  | nil => exact fun s _ => rfl
  | cons d ds ih =>
    intro s hs
    cases hstep : microStep s d with
    | moved t e =>
      simp only [microRun, hstep, rewindAll]
      rw [ih t (microStepKeepsInvariant s t d e hs hstep), rewind_microStep hs hstep]
    | noProgress =>
      simp only [microRun, hstep]
      exact ih s hs
    | refused r =>
      simp only [microRun, hstep]
      rfl

end Sys2Proof.Machine
end

section
/-! PROOFS. The net effect of every instruction (42_data_transfer.md R231 to R236, 43_arithmetic.md R261 to R263,
44_control.md R281 to R288, 45_io_system.md R310 to R317): the state it leaves, what stays unchanged in it, the whole cycle from
an instruction boundary, and the rules of the data transfers. -/

namespace Sys2Proof.Machine

/-! The state an instruction leaves. -/

theorem low12_add (v w : Word) : low12 (v + w) = low12 v + low12 w := BitVec.setWidth_add v w (by decide)

/-- R281: the state that JnS leaves. -/
theorem exec_jns (x : Addr) (s : State) :
    exec (.jns x) s =
      .next { s with mar := x, mbr := zext16 x, mem := s.mem.write x.toNat (zext16 s.pc), pc := x + 1,
                     ac := if s.cfg.jnsAcWrite then zext16 x + 1 else s.ac, dec := some .jns, upc := 0 } := by
  have hone : low12 1#16 = 1#12 := rfl
  cases hwrite : s.cfg.jnsAcWrite <;>
    simp [exec, execJnS, runInstr, jnsOps, runOps, latch, stepEnd, State.setDec, State.setUpc, State.jnsKeepsAC, hwrite,
      low12_add, hone, BitVec.add_comm]

/-- The net effect of an instruction, from its Decode on, as its rule states it; of Input, up to its first attempt. -/
def netEffect (i : Instr) (s : State) : State :=
  match i with
  | .jns x | .adr x =>
    { s with mar := x, mbr := zext16 x, mem := s.mem.write x.toNat (zext16 s.pc), pc := x + 1,
             ac := if s.cfg.jnsAcWrite then zext16 x + 1 else s.ac, dec := some .jns, upc := 0 }
  | .load x => { s with mar := x, mbr := s.readMem x, ac := s.readMem x, dec := some .load, upc := 0 }
  | .store x => { s with mar := x, mbr := s.ac, mem := s.mem.write x.toNat s.ac, dec := some .store, upc := 0 }
  | .add x => { s with mar := x, mbr := s.readMem x, ac := s.ac + s.readMem x, dec := some .add, upc := 0 }
  | .subt x => { s with mar := x, mbr := s.readMem x, ac := s.ac - s.readMem x, dec := some .subt, upc := 0 }
  | .input _ => attemptInput { s with dec := some .input, intr := .needsValue, upc := 7 }
  | .output _ => { s with outReg := s.ac, outputs := s.outputs ++ [s.ac], dec := some .output, upc := 0 }
  | .halt _ => { s with halted := true, dec := some .halt, upc := 7 }
  | .skipCond c _ =>
    { s with cmp := condHolds c s.ac, pc := if condHolds c s.ac then s.pc + 1 else s.pc, dec := some .skipCond, upc := 0 }
  | .jump x => { s with pc := x, dec := some .jump, upc := 0 }
  | .loadImmi x => { s with ac := zext16 x, dec := some .loadImmi, upc := 0 }
  | .addI x =>
    { s with mar := low12 (s.readMem x), mbr := s.readMem (low12 (s.readMem x)), ac := s.ac + s.readMem (low12 (s.readMem x)),
             dec := some .addI, upc := 0 }
  | .jumpI x => { s with mar := x, mbr := s.readMem x, pc := low12 (s.readMem x), dec := some .jumpI, upc := 0 }
  | .loadI x =>
    { s with mar := low12 (s.readMem x), mbr := s.readMem (low12 (s.readMem x)), ac := s.readMem (low12 (s.readMem x)),
             dec := some .loadI, upc := 0 }
  | .storeI x =>
    { s with mar := low12 (s.readMem x), mbr := s.ac, mem := s.mem.write (low12 (s.readMem x)).toNat s.ac, dec := some .storeI,
             upc := 0 }
  | .clear => { s with ac := 0, dec := some .loadImmi, upc := 0 }
  | .undefinedOpcode0xF _ => { s with halted := true, fault := .unsupportedOpcode, upc := 6 }

/-- Every instruction goes on, in the state of its net effect. -/
theorem exec_eq_netEffect (i : Instr) (s : State) : exec i s = .next (netEffect i s) := by
  have hclear : zext16 0#12 = 0#16 := rfl
  cases i with
  | jns x | adr x => exact exec_jns x s
  | store x => exact exec_store x s
  | storeI x => exact exec_storeI x s
  | skipCond c p => exact exec_skipCond c p s
  | input x => exact exec_input x s
  | output x => exact exec_output x s
  | halt x => exact exec_halt x s
  | undefinedOpcode0xF x => exact exec_undefinedOpcode0xF x s
  | load x | add x | subt x | jump x | loadImmi x | addI x | jumpI x | loadI x | clear =>
    simp [netEffect, exec, execLoad, loadOps, execAdd, addOps, execSubt, subtOps, execJump, jumpOps, execLoadImmi, loadImmiOps,
      execAddI, addIOps, execJumpI, jumpIOps, execLoadI, loadIOps, execClear, hclear, runInstr, runOps, latch, stepEnd,
      State.setDec, State.setUpc, State.readMem, State.jnsKeepsAC]

theorem eq_netEffect_of_exec {i : Instr} {s t : State} (h : exec i s = .next t) : t = netEffect i s :=
  Host.Outcome.next.inj (h.symm.trans (exec_eq_netEffect i s))

/-! What it leaves unchanged. -/

/-- An input attempt writes AC, IN, intr, the answers and upc, and nothing else (R311 to R313). -/
theorem attemptInput_frame (s : State) : ∃ ac inReg intr inputs upc,
    attemptInput s = { s with ac := ac, inReg := inReg, intr := intr, inputs := inputs, upc := upc } := by
  rcases attemptInput_cases s with ⟨-, h⟩ | ⟨rest, -, h⟩ | ⟨v, rest, -, h⟩
  · exact ⟨s.ac, s.inReg, s.intr, s.inputs, s.upc, h⟩
  · exact ⟨s.ac, s.inReg, s.intr, rest, s.upc, h⟩
  · exact ⟨wordOfInt v, wordOfInt v, .idle, rest, 0, h⟩

theorem netEffect_input_frame (x : Addr) (s : State) : ∃ ac inReg intr inputs upc,
    netEffect (.input x) s = { s with ac := ac, inReg := inReg, intr := intr, inputs := inputs, dec := some .input, upc := upc } :=
  attemptInput_frame _

/-- Memory after an instruction: one write for those that store, none for the others. -/
theorem netEffect_mem (i : Instr) (s : State) :
    (netEffect i s).mem =
      match storeAddr i s with
      | some a => s.mem.write a.toNat (storedWord i s)
      | none => s.mem := by
  cases i with
  | input x =>
    obtain ⟨_, _, _, _, _, h⟩ := netEffect_input_frame x s
    rw [h]
    rfl
  | _ => rfl

/-- In a canonical memory the word at an address is then the stored word, or the word there before. -/
theorem readMem_netEffect {s : State} (hm : s.mem.wf = true) (i : Instr) (b : Addr) :
    (netEffect i s).readMem b = if storeAddr i s = some b then storedWord i s else s.readMem b := by
  rw [State.readMem, netEffect_mem]
  cases storeAddr i s with
  | none => rfl
  | some a => exact (State.readMem_writeMem hm a b _).trans (by simp [eq_comm])

/-- Settles O39: the two cases of a read after the instruction. -/
theorem memoryChangesOnlyWhereStored : Obligations.MemoryChangesOnlyWhereStored := by
  unfold Obligations.MemoryChangesOnlyWhereStored
  intro i s t hm h
  obtain rfl := eq_netEffect_of_exec h
  exact ⟨fun a ha => by rw [readMem_netEffect hm, if_pos ha], fun b hb => by rw [readMem_netEffect hm, if_neg hb]⟩

/-- Settles O40: the fields that occur in each net effect. -/
theorem registersChangeOnlyWhereNamed : Obligations.RegistersChangeOnlyWhereNamed := by
  unfold Obligations.RegistersChangeOnlyWhereNamed
  intro i s t h
  obtain rfl := eq_netEffect_of_exec h
  -- The clause on PC asks for some condition, whatever the instruction.
  have hcond : Nonempty Cond := ⟨.neg⟩
  cases i with
  | input x =>
    obtain ⟨_, _, _, _, _, hframe⟩ := netEffect_input_frame x s
    rw [hframe]
    simp
  | _ => simp [netEffect]

/-! The whole cycle. -/

theorem executeCount_of_go {x : Addr} {ops : List MicroOp} {s t : State} (h : runOps x ops s = .go t) :
    executeCount x ops s = ops.length + 1 := by
  induction ops generalizing s with
  | nil => rfl
  | cons m ops ih =>
    cases hp : perform x m s with
    | stop u =>
      rw [runOps_cons_stop ops hp] at h
      cases h
    | go u =>
      rw [runOps_cons_go ops hp] at h
      rw [executeCount, hp]
      exact congrArg (· + 1) (ih h)

theorem runOps_stop_halted {x : Addr} {ops : List MicroOp} {s t : State} (h : runOps x ops s = .stop t) : t.halted = true := by
  induction ops generalizing s with
  | nil => cases h
  | cons m ops ih =>
    cases hp : perform x m s with
    | stop u =>
      rw [runOps_cons_stop ops hp] at h
      obtain ⟨v, hv, rfl⟩ := transfer_of_perform_stop hp
      cases h
      exact (transfer_stop_halted hv :)
    | go u =>
      rw [runOps_cons_go ops hp] at h
      exact ih h

/-- R217, R400: the cycle of a table entry other than Input that leaves the block running: the six micro-steps of the fetch and
decode, the whole list and the step-end, to the state of the net effect. -/
theorem microCycle_netEffect {s : State} {op : Opcode} {x : Addr} (hs : s.atBoundary = true)
    (hword : s.readMem s.pc = encode (instrOf op x)) (hinput : op ≠ .input)
    (hrun : (netEffect (instrOf op x) (fetch s)).halted = false) :
    microCycle s = .stopped ((microOps op).length + 7) true (netEffect (instrOf op x) (fetch s)) := by
  rw [encode_instrOf] at hword
  have hop : opcodeOf (s.readMem s.pc) = some op := by
    rw [opcodeOf, hword, opcodeField_append, opcodeOfField_bits]
  have hoperand : (fetch s).operand = x := by
    rw [State.operand, fetch_ir, hword, operandField_append]
  have hended : (runOps x (microOps op) (latch op (fetch s))).ended = netEffect (instrOf op x) (fetch s) := by
    apply eq_netEffect_of_exec
    rw [exec_instrOf hinput, runInstr_eq_ended]
  rw [microCycle_of_opcode hs hop hinput, hoperand, hended]
  cases hops : runOps x (microOps op) (latch op (fetch s)) with
  | go u => rw [executeCount_of_go hops]
  | stop u =>
    rw [← hended, hops] at hrun
    exact Bool.noConfusion (hrun.symm.trans (runOps_stop_halted hops))

/-! What the fetch leaves of the registers and the memory that an instruction reads (R187 to R191). -/

@[simp] theorem fetch_ac (s : State) : (fetch s).ac = s.ac := by
  simp [fetch, fetchOps, runOps]

@[simp] theorem fetch_mem (s : State) : (fetch s).mem = s.mem := by
  simp [fetch, fetchOps, runOps]

@[simp] theorem fetch_readMem (s : State) (a : Addr) : (fetch s).readMem a = s.readMem a := by
  rw [State.readMem, fetch_mem, State.readMem]

/-! The rules of the data transfers: word, list, net effect, read after the write, cycle. -/

/-- R125: an entry's word is its word for operand 0 with the operand's bits set. -/
theorem encode_instrOf_eq_or {op : Opcode} {w : Word} (hw : op.bits ++ 0#12 = w) (x : Addr) :
    encode (instrOf op x) = w ||| zext16 x := by
  rw [encode_instrOf, append_eq_or_zext16, hw]

/-- Settles O18: the net effect of Load, and its cycle. -/
theorem loadRule : Obligations.LoadRule := by
  unfold Obligations.LoadRule
  intro x s
  refine ⟨encode_instrOf_eq_or (op := .load) rfl x, rfl, exec_eq_netEffect (.load x) s, fun hs hword => ?_⟩
  have hcycle := microCycle_netEffect (op := .load) hs hword (by decide) (fetch_control hs).1
  simpa [netEffect, instrOf, microOps, loadOps] using hcycle

/-- Settles O19: the net effect of Store, and its cycle. -/
theorem storeRule : Obligations.StoreRule := by
  unfold Obligations.StoreRule
  intro x s
  refine ⟨encode_instrOf_eq_or (op := .store) rfl x, rfl, exec_eq_netEffect (.store x) s, fun hm => ?_, fun hs hword => ?_⟩
  · rw [Memory.read_write hm, if_pos rfl]
  · have hcycle := microCycle_netEffect (op := .store) hs hword (by decide) (fetch_control hs).1
    simpa [netEffect, instrOf, microOps, storeOps] using hcycle

/-- Settles O20: the net effect of LoadImmi, and its cycle. -/
theorem loadImmiRule : Obligations.LoadImmiRule := by
  unfold Obligations.LoadImmiRule
  intro x s
  refine ⟨encode_instrOf_eq_or (op := .loadImmi) rfl x, rfl, exec_eq_netEffect (.loadImmi x) s, fun hs hword => ?_⟩
  have hcycle := microCycle_netEffect (op := .loadImmi) hs hword (by decide) (fetch_control hs).1
  simpa [netEffect, instrOf, microOps, loadImmiOps] using hcycle

/-- Settles O21: Clear is the spelling that the decoder resolves to LoadImmi 0, and runs its list with operand 0. -/
theorem clearRule : Obligations.ClearRule := by
  unfold Obligations.ClearRule
  exact ⟨rfl, rfl, decodeWord_encode .clear, fun s => ⟨rfl, exec_eq_netEffect .clear s⟩⟩

/-- Settles O22: the net effect of LoadI, and its cycle. -/
theorem loadIRule : Obligations.LoadIRule := by
  unfold Obligations.LoadIRule
  intro x s
  refine ⟨encode_instrOf_eq_or (op := .loadI) rfl x, rfl, exec_eq_netEffect (.loadI x) s, fun hs hword => ?_⟩
  have hcycle := microCycle_netEffect (op := .loadI) hs hword (by decide) (fetch_control hs).1
  simpa [netEffect, instrOf, microOps, loadIOps] using hcycle

/-- Settles O23: the net effect of StoreI, and its cycle. -/
theorem storeIRule : Obligations.StoreIRule := by
  unfold Obligations.StoreIRule
  intro x s
  refine ⟨encode_instrOf_eq_or (op := .storeI) rfl x, rfl, exec_eq_netEffect (.storeI x) s, fun hm => ?_, fun hs hword => ?_⟩
  · rw [Memory.read_write hm, if_pos rfl]
  · have hcycle := microCycle_netEffect (op := .storeI) hs hword (by decide) (fetch_control hs).1
    simpa [netEffect, instrOf, microOps, storeIOps] using hcycle

end Sys2Proof.Machine
end

section
/-! PROOFS. The rules of the arithmetic instructions (43_arithmetic.md R261 to R263): word, list, net effect, cycle. -/

namespace Sys2Proof.Machine

/-- Settles O24: the net effect of Add, and its cycle. -/
theorem addRule : Obligations.AddRule := by
  unfold Obligations.AddRule
  intro x s
  refine ⟨encode_instrOf_eq_or (op := .add) rfl x, rfl, exec_eq_netEffect (.add x) s, fun hs hword => ?_⟩
  have hcycle := microCycle_netEffect (op := .add) hs hword (by decide) (fetch_control hs).1
  simpa [netEffect, instrOf, microOps, addOps] using hcycle

/-- Settles O25: the net effect of Subt, and its cycle. -/
theorem subtRule : Obligations.SubtRule := by
  unfold Obligations.SubtRule
  intro x s
  refine ⟨encode_instrOf_eq_or (op := .subt) rfl x, rfl, exec_eq_netEffect (.subt x) s, fun hs hword => ?_⟩
  have hcycle := microCycle_netEffect (op := .subt) hs hword (by decide) (fetch_control hs).1
  simpa [netEffect, instrOf, microOps, subtOps] using hcycle

/-- Settles O26: the net effect of AddI, and its cycle. -/
theorem addIRule : Obligations.AddIRule := by
  unfold Obligations.AddIRule
  intro x s
  refine ⟨encode_instrOf_eq_or (op := .addI) rfl x, rfl, exec_eq_netEffect (.addI x) s, fun hs hword => ?_⟩
  have hcycle := microCycle_netEffect (op := .addI) hs hword (by decide) (fetch_control hs).1
  simpa [netEffect, instrOf, microOps, addIOps] using hcycle

end Sys2Proof.Machine
end

section
/-! PROOFS. The rules of the control instructions (44_control.md R281 to R288): word, list, net effect, cycle, and the return from
a call. -/

namespace Sys2Proof.Machine

/-! What the fetch leaves of PC and the parameters, which JnS and SkipCond read (R191). -/

@[simp] theorem fetch_pc {s : State} (hs : s.atBoundary = true) : (fetch s).pc = s.pc + 1 := by
  rw [fetch_of_upc_zero (State.atBoundary_iff.mp hs).2.1]

@[simp] theorem fetch_cfg (s : State) : (fetch s).cfg = s.cfg := by
  simp [fetch, fetchOps, runOps]

/-- SkipCond is what its table entry makes with the condition above the ignored bits (R101(c), R105). -/
@[simp] theorem instrOf_skipCond (c : Cond) (p : BitVec 10) : instrOf .skipCond (skipCondOperand c p) = .skipCond c p := by
  rw [instrOf, condOfOperand_skipCondOperand, ignoredBits_skipCondOperand]

/-- Settles O27: the net effect of JnS, and its cycle, whose return address is PC after the fetch. -/
theorem jnSRule : Obligations.JnSRule := by
  unfold Obligations.JnSRule
  intro x s
  refine ⟨encode_instrOf_eq_or (op := .jns) rfl x, rfl, exec_eq_netEffect (.jns x) s, fun hm => ?_, fun hs hword => ?_⟩
  · rw [Memory.read_write hm, if_pos rfl]
  · have hcycle := microCycle_netEffect (op := .jns) hs hword (by decide) (fetch_control hs).1
    simpa [netEffect, instrOf, microOps, jnsOps, hs] using hcycle

/-- Settles O28: Adr is the spelling that the encoder and the decoder resolve to JnS, and has its net effect. -/
theorem adrRule : Obligations.AdrRule := by
  unfold Obligations.AdrRule
  intro x s
  exact ⟨rfl, encode_instrOf_eq_or (op := .jns) rfl x, decodeWord_encode (.adr x), rfl, _, exec_eq_netEffect (.adr x) s, rfl⟩

/-- Settles O29: the net effect of SkipCond, and its cycle, which skips from PC after the fetch. -/
theorem skipCondRule : Obligations.SkipCondRule := by
  unfold Obligations.SkipCondRule
  intro c p s
  refine ⟨?_, rfl, evalCond_skipCondOperand c p s.ac, exec_eq_netEffect (.skipCond c p) s, fun hs hword => ?_⟩
  · rw [← instrOf_skipCond]
    exact encode_instrOf_eq_or (op := .skipCond) rfl (skipCondOperand c p)
  · rw [← instrOf_skipCond] at hword
    have hcycle := microCycle_netEffect (op := .skipCond) hs hword (by decide) (fetch_control hs).1
    simpa [netEffect, microOps, skipCondOps, hs] using hcycle

/-- Settles O30: the net effect of Jump, and its cycle. -/
theorem jumpRule : Obligations.JumpRule := by
  unfold Obligations.JumpRule
  intro x s
  refine ⟨encode_instrOf_eq_or (op := .jump) rfl x, rfl, exec_eq_netEffect (.jump x) s, fun hs hword => ?_⟩
  have hcycle := microCycle_netEffect (op := .jump) hs hword (by decide) (fetch_control hs).1
  simpa [netEffect, instrOf, microOps, jumpOps] using hcycle

/-- Settles O31: the net effect of JumpI, and its cycle. -/
theorem jumpIRule : Obligations.JumpIRule := by
  unfold Obligations.JumpIRule
  intro x s
  refine ⟨encode_instrOf_eq_or (op := .jumpI) rfl x, rfl, exec_eq_netEffect (.jumpI x) s, fun hs hword => ?_⟩
  have hcycle := microCycle_netEffect (op := .jumpI) hs hword (by decide) (fetch_control hs).1
  simpa [netEffect, instrOf, microOps, jumpIOps] using hcycle

/-- Settles O43: the word at X is the return address as JnS stored it, and JumpI takes its low twelve bits back. -/
theorem jumpIReturnsFromJnS : Obligations.JumpIReturnsFromJnS := by
  unfold Obligations.JumpIReturnsFromJnS
  intro x s t u v hm hcall hslot hreturn
  obtain rfl := eq_netEffect_of_exec hcall
  obtain rfl := eq_netEffect_of_exec hreturn
  have hstored : (netEffect (.jns x) s).readMem x = zext16 s.pc := by
    rw [readMem_netEffect hm]
    exact if_pos rfl
  have hpc : low12 (u.readMem x) = s.pc := by
    rw [hslot, hstored, low12_zext16]
  exact ⟨rfl, hpc⟩

end Sys2Proof.Machine
end

section
/-! PROOFS. The input and output instructions (45_io_system.md R310 to R317): Input with an answer, without one and waiting for
one; Output and its stream; Halt and opcode 0xF. -/

namespace Sys2Proof.Machine

/-! What the fetch leaves of the host's two lists. -/

@[simp] theorem fetch_inputs (s : State) : (fetch s).inputs = s.inputs := by
  simp [fetch, fetchOps, runOps]

@[simp] theorem fetch_outputs (s : State) : (fetch s).outputs = s.outputs := by
  simp [fetch, fetchOps, runOps]

/-! Input from its boundary (R310 to R314). -/

/-- R311, R312, R314: an attempt whose answer is there, to its step-end. -/
theorem attemptInput_answered {s : State} {v : Int} {rest : List (Option Int)} (h : s.inputs = some v :: rest) :
    attemptInput s =
      { s with inReg := BitVec.ofInt 16 v, ac := BitVec.ofInt 16 v, intr := .idle, inputs := rest, upc := 0 } := by
  rw [attemptInput, h]
  rfl

/-- R310: the fetch, the decode and the request of an Input leave the block waiting at upc 7. -/
theorem cycleLoop_input_request {s : State} (hs : s.atBoundary = true) (hop : opcodeOf (s.readMem s.pc) = some .input)
    (fuel : Nat) :
    cycleLoop (fuel + 7) s =
      CycleResult.succ^[7] (cycleLoop fuel { fetch s with dec := some .input, intr := .needsValue, upc := 7 }) := by
  have hexec := latch_executing .input hs
  rw [cycleLoop_fetch_decode hs hop (fuel + 1),
    cycleLoop_go hexec.running hexec.idle hexec.microOpAt_cons (by decide) (perform_inputReq _ _)]
  rfl

/-- The net effect of an Input whose answer is there. -/
theorem netEffect_input_answered (x : Addr) {s : State} {v : Int} {rest : List (Option Int)} (h : s.inputs = some v :: rest) :
    netEffect (.input x) s =
      { s with inReg := BitVec.ofInt 16 v, ac := BitVec.ofInt 16 v, intr := .idle, inputs := rest, dec := some .input,
               upc := 0 } :=
  attemptInput_answered h

/-- R400: such an Input takes ten micro-steps, of which the attempt and its step-end are three. -/
theorem microCycle_input_answered (x : Addr) {s : State} {v : Int} (hs : s.atBoundary = true)
    (hop : opcodeOf (s.readMem s.pc) = some .input) (hdraw : s.nextDraw = some v) :
    microCycle s = .stopped 10 true (netEffect (.input x) (fetch s)) := by
  have hasks : State.asksInput { fetch s with dec := some .input, intr := .needsValue, upc := 7 } = true :=
    State.asksInput_iff.mpr ⟨(fetch_control hs).1, rfl⟩
  have hfetched : State.nextDraw { fetch s with dec := some .input, intr := .needsValue, upc := 7 } = some v := by
    rw [← hdraw, State.nextDraw, State.nextDraw, fetch_inputs]
  rw [microCycle, cycleFuel, cycleLoop_input_request hs hop 41, cycleLoop_answered hasks rfl rfl hfetched 38]
  exact CycleResult.iterate_succ_stopped 7 3 _ _

/-- Settles O32: the attempt takes the answer, in the meaning and in the cycle. -/
theorem inputRuleWithAnswer : Obligations.InputRuleWithAnswer := by
  unfold Obligations.InputRuleWithAnswer
  intro x v rest s hinputs
  refine ⟨rfl, rfl, ?_, fun hs hword => ?_⟩
  · rw [exec_eq_netEffect, netEffect_input_answered x hinputs]
  · obtain ⟨-, hidle, -⟩ := fetch_control hs
    have hop : opcodeOf (s.readMem s.pc) = some .input := by rw [hword, opcodeOf_encode]; rfl
    have hdraw : s.nextDraw = some v := by rw [State.nextDraw, hinputs]; rfl
    have hfetched : (fetch s).inputs = some v :: rest := (fetch_inputs s).trans hinputs
    rw [microCycle_input_answered x hs hop hdraw, netEffect_input_answered x hfetched, ← hidle]

/-- Settles O33: the attempt spends an answer that is not there, and no more. -/
theorem inputWaitsWithoutAnswer : Obligations.InputWaitsWithoutAnswer := by
  unfold Obligations.InputWaitsWithoutAnswer
  intro x s hdraw
  exact (exec_input x s).trans (congrArg Host.Outcome.next (attemptInput_of_no_draw hdraw))

/-! Steps of a waiting block (R311 to R313). -/

theorem run_succ {s t : State} (hrun : s.halted = false) (hstep : step s = .next t) (calls : Nat) :
    run (calls + 1) s = run calls t := by
  simp [run, hrun, hstep]

theorem run_of_step_self {s : State} (hstep : step s = .next s) (calls : Nat) : run calls s = .next s := by
  induction calls with
  | zero => rfl
  | succ calls ih =>
    cases hhalt : s.halted with
    | true => exact run_of_halted hhalt _
    | false => rw [run_succ hhalt hstep, ih]

theorem State.isWaiting_iff {s : State} : s.isWaiting = true ↔ s.halted = false ∧ s.intr = .needsValue := State.asksInput_iff

/-- A step of a waiting block finishes the Input under way. -/
theorem step_of_isWaiting {s : State} (hwait : s.isWaiting = true) : step s = resume s := by
  obtain ⟨-, hintr⟩ := State.isWaiting_iff.mp hwait
  exact step_of_not_boundary (by simp [State.atBoundary, hintr])

/-- R313: without a usable answer a step of a waiting block spends the attempt. -/
theorem step_waiting_of_no_draw {s : State} (hwait : s.isWaiting = true) (hdraw : s.nextDraw = none) :
    step s = .next (s.setInputs s.inputs.tail) := by
  rw [step_of_isWaiting hwait, resume, microCycle, cycleFuel, cycleLoop_blocked hwait hdraw, attemptInput_of_no_draw hdraw]

/-- R311, R312: with one it completes the Input. -/
theorem step_waiting_of_draw {s : State} {v : Int} (hwait : s.isWaiting = true) (hdec : s.dec = some .input) (hupc : s.upc = 7)
    (hdraw : s.nextDraw = some v) : step s = .next (attemptInput s) := by
  rw [step_of_isWaiting hwait, resume, microCycle, cycleFuel, cycleLoop_answered hwait hdec hupc hdraw 45]

/-- Attempts that find the source not ready spend their answers and leave the block to the calls after them. -/
theorem run_not_ready {s : State} {rest : List (Option Int)} {k : Nat} (hwait : s.isWaiting = true)
    (hinputs : s.inputs = List.replicate k none ++ rest) (calls : Nat) :
    run (k + calls) s = run calls (s.setInputs rest) := by
  induction k generalizing s with
  | zero =>
    obtain rfl : s.inputs = rest := hinputs
    rw [Nat.zero_add]
    rfl
  | succ k ih =>
    rw [List.replicate_succ, List.cons_append] at hinputs
    have hdraw : s.nextDraw = none := by rw [State.nextDraw, hinputs]; rfl
    have hstep := step_waiting_of_no_draw hwait hdraw
    rw [hinputs, List.tail_cons] at hstep
    rw [Nat.succ_add, run_succ (State.isWaiting_iff.mp hwait).1 hstep,
      ih (s := s.setInputs (List.replicate k none ++ rest)) hwait rfl]
    rfl

/-- Settles O34: the not-ready attempts, and then the one that completes the Input. -/
theorem waitingInputTakesFirstUsableAnswer : Obligations.WaitingInputTakesFirstUsableAnswer := by
  unfold Obligations.WaitingInputTakesFirstUsableAnswer
  intro k v rest s hwait hdec hupc hinputs
  refine ⟨run_not_ready hwait hinputs 0, ?_⟩
  have hstep := step_waiting_of_draw (s := s.setInputs (some v :: rest)) hwait hdec hupc rfl
  rw [attemptInput_answered rfl] at hstep
  rw [run_not_ready hwait hinputs 1]
  exact run_succ (s := s.setInputs (some v :: rest)) (State.isWaiting_iff.mp hwait).1 hstep 0

/-- Settles O35: a step of the waiting block spends nothing when there is nothing to spend. -/
theorem blockWithoutAnswersWaitsForever : Obligations.BlockWithoutAnswersWaitsForever := by
  unfold Obligations.BlockWithoutAnswersWaitsForever
  intro s k hwait hinputs
  obtain ⟨hrun, hintr⟩ := State.isWaiting_iff.mp hwait
  have hkeeps : s.setInputs s.inputs.tail = s := by
    rw [hinputs, List.tail_nil, ← hinputs]
    rfl
  have hstep : step s = .next s := by
    rw [step_waiting_of_no_draw hwait (by rw [State.nextDraw, hinputs]; rfl), hkeeps]
  exact ⟨microStep_noProgress_iff.mpr (.inr ⟨hintr, rfl⟩), hstep, run_of_step_self hstep k, hrun⟩

/-! Output and the output stream (R315). -/

/-- Settles O36: the net effect of Output, its cycle, and the event of its micro-op. -/
theorem outputRule : Obligations.OutputRule := by
  unfold Obligations.OutputRule
  intro x s
  refine ⟨rfl, rfl, exec_output x s, fun hs hword => ?_, rfl, rfl⟩
  have hcycle := microCycle_netEffect (op := .output) hs hword (by decide) (fetch_control hs).1
  simpa [netEffect, instrOf, microOps, outputOps] using hcycle

theorem kindOf_eq_output {m : MicroOp} : kindOf m = .output ↔ m = .outFromAC := by cases m <;> decide

/-- OUTfromAC is the one micro-op whose event is an output (R216). -/
theorem kind_eventOf_eq_output {x : Addr} {m : MicroOp} {s : State} :
    (eventOf x m s).kind = .output ↔ m = .outFromAC := by
  cases hp : perform x m s with
  | go t => rw [kind_eventOf_of_go hp, kindOf_eq_output]
  | stop t =>
    refine ⟨fun hkind => ?_, ?_⟩
    · rw [kind_eventOf_of_stop hp] at hkind
      cases hkind
    · rintro rfl
      cases hp

/-- OUTfromAC is the one micro-op that writes OUT and the stream (R182). -/
theorem transfer_outputs {x : Addr} {m : MicroOp} (s : State) (h : m ≠ .outFromAC) :
    (transfer x m s).state.outputs = s.outputs ∧ (transfer x m s).state.outReg = s.outReg := by
  cases m with
  | outFromAC => exact absurd rfl h
  | decode | cmp | acOne | aluAdd | skipInc =>
    simp only [transfer]
    split <;> exact ⟨rfl, rfl⟩
  | _ => exact ⟨rfl, rfl⟩

/-- Settles O58: an output event is OUTfromAC's; the engine steps of Input and every other micro-op leave OUT and the stream. -/
theorem outputStreamIsOutputEvents : Obligations.OutputStreamIsOutputEvents := by
  unfold Obligations.OutputStreamIsOutputEvents
  intro s t d e h
  obtain ⟨-, ⟨v, -, -, rfl, rfl⟩ | ⟨-, rfl, rfl⟩ | ⟨m, -, -, rfl, rfl⟩⟩ := microStep_moved h
  · exact ⟨fun hkind => EventKind.noConfusion hkind, fun _ => ⟨rfl, rfl⟩⟩
  · exact ⟨fun hkind => EventKind.noConfusion hkind, fun _ => ⟨rfl, rfl⟩⟩
  · rw [Ne, kind_eventOf_eq_output, perform_state]
    refine ⟨?_, fun hop => transfer_outputs s hop⟩
    rintro rfl
    exact ⟨rfl, rfl⟩

/-! Halt and opcode 0xF (R316, R317). -/

/-- Settles O37: Halt's one micro-op halts the block, so that the cycle ends without a step-end. -/
theorem haltRule : Obligations.HaltRule := by
  unfold Obligations.HaltRule
  intro x s
  refine ⟨rfl, rfl, exec_halt x s, fun hs hword => ?_, rfl, rfl, microStep_of_halted rfl⟩
  have hop : opcodeOf (s.readMem s.pc) = some .halt := by rw [hword, opcodeOf_encode]; rfl
  rw [microCycle_of_opcode hs hop (by decide)]
  rfl

/-- Settles O38: the word has no table entry, so that its Decode halts the block. -/
theorem undefinedOpcodeRule : Obligations.UndefinedOpcodeRule := by
  unfold Obligations.UndefinedOpcodeRule
  intro x s
  have hnone : opcodeOf (encode (.undefinedOpcode0xF x)) = none := opcodeOf_encode _
  refine ⟨append_eq_or_zext16 0xF x, hnone, exec_undefinedOpcode0xF x s, fun hs hword => ?_, fun hir => ?_⟩
  · exact cycleLoop_undefined hs (by rw [hword, hnone]) 42
  · exact eventOf_decode_none (by rw [hir, hnone])

end Sys2Proof.Machine
end

section
/-! PROOFS. The runtime faults (60_exceptions.md R341, R342; 90_conflicts.md C4): the one micro-op that raises one, and what it
leaves. -/

namespace Sys2Proof.Machine

/-- Decode stands at upc 5 alone, the last position of the fetch and decode (R184). -/
theorem upc_of_microOpAt_decode {s : State} (h : microOpAt s = some .decode) : s.upc = 5 := by
  rcases microOpAt_cases h with ⟨-, hfetch⟩ | ⟨op, -, -, hlist | ⟨-, hm⟩⟩
  · exact BitVec.eq_of_toNat_eq ((fetchDecodeOps_getElem? hfetch).2.2.mp rfl)
  · exact absurd rfl (ne_of_mem_microOps (List.mem_of_getElem? hlist)).1
  · cases hm

/-- A micro-op keeps the fault code, or is the Decode of a word without a table entry: Halt raises no fault, and the fault arm of
CMP is dead (C4). -/
theorem transfer_fault_or_decode (x : Addr) (m : MicroOp) (s : State) :
    (transfer x m s).state.fault = s.fault ∨ (m = .decode ∧ opcodeOf s.ir = none) := by
  cases h : transfer x m s with
  | go t => exact .inl (transfer_go h).2
  | stop t =>
    rcases transfer_stop h with ⟨-, rfl⟩ | ⟨hm, hop, -⟩ | ⟨-, hcond, -⟩
    · exact .inl rfl
    · exact .inr ⟨hm, hop⟩
    · rw [evalCond_eq_condHolds] at hcond
      cases hcond

/-- The engine steps of Input keep the fault code, so that a micro-step which changes it is the Decode of a word without a table
entry (R342). -/
theorem decode_of_microStep_fault_ne {s t : State} {d : Option Int} {e : Event} (h : microStep s d = .moved t e)
    (hfault : t.fault ≠ s.fault) :
    microOpAt s = some .decode ∧ opcodeOf s.ir = none ∧
      t = { s with halted := true, fault := .unsupportedOpcode, upc := s.upc + 1 } ∧ e = eventOf s.operand .decode s := by
  obtain ⟨-, ⟨v, -, -, rfl, -⟩ | ⟨-, rfl, -⟩ | ⟨m, -, hm, rfl, rfl⟩⟩ := microStep_moved h
  · exact absurd rfl hfault
  · exact absurd rfl hfault
  · rw [perform_state, State.setUpc_fault] at hfault
    obtain ⟨rfl, hop⟩ := (transfer_fault_or_decode s.operand m s).resolve_left hfault
    exact ⟨hm, hop, by rw [perform_decode_none hop, Flow.state_stop], rfl⟩

/-- Settles O47: the micro-step is a Decode, whose state and event give the code 1. -/
theorem raisedFaultOnlyHalts : Obligations.RaisedFaultOnlyHalts := by
  unfold Obligations.RaisedFaultOnlyHalts
  intro s t d e h hnone hraised
  obtain ⟨-, hop, rfl, rfl⟩ := decode_of_microStep_fault_ne h (hnone ▸ hraised)
  obtain ⟨hkind, hpayload⟩ := eventOf_decode_none (x := s.operand) hop
  exact ⟨rfl, hkind, hpayload, Option.some_ne_none _⟩

/-- Settles O48: the micro-step is a Decode, which stands at upc 5, and 0xF is the one opcode without a table entry. -/
theorem onlyDecodeOfOpcodeFFaults : Obligations.OnlyDecodeOfOpcodeFFaults := by
  unfold Obligations.OnlyDecodeOfOpcodeFFaults
  intro s t d e h hnone hraised
  obtain ⟨hdecode, hop, rfl, -⟩ := decode_of_microStep_fault_ne h (hnone ▸ hraised)
  exact ⟨rfl, upc_of_microOpAt_decode hdecode, (opcodeOfField_eq_none _).mp hop⟩

end Sys2Proof.Machine
end

section
/-! PROOFS. Reset and load (70_reset_and_hazards.md R380 to R382, 10_state.md R47), and the number of micro-steps of each
instruction (R400). -/

namespace Sys2Proof.Machine

/-! Load (R381). -/

theorem load_of_not_fits {origin : Addr} {program : List Nat} (h : memWords < origin.toNat + program.length) (s : State) :
    load origin program s = .refused .programDoesNotFit := if_pos h

theorem load_of_fits {origin : Addr} {program : List Nat} (h : origin.toNat + program.length ≤ memWords) (s : State) :
    load origin program s = .next (loaded origin program s) := if_neg (Nat.not_lt.mpr h)

/-- Settles O3: the memory is the image of the program from its origin on. -/
theorem loadPlacesImageAndResets : Obligations.LoadPlacesImageAndResets := by
  unfold Obligations.LoadPlacesImageAndResets
  refine fun origin program s => ⟨fun hlarge => load_of_not_fits hlarge s, fun hfits => ?_⟩
  exact ⟨imageFrom origin.toNat program, imageFrom_wf hfits, load_of_fits hfits s, fun a => imageFrom_read program _ _⟩

/-! Reset and power-on (R380, R382). -/

theorem resetRegisters_atBoundary (s : State) : (resetRegisters s).atBoundary = true :=
  State.atBoundary_iff.mpr ⟨rfl, rfl, rfl⟩

/-- Settles O1: the empty program's image is the empty memory, and power-on is a reset of itself. -/
theorem powerOnIsLoadOfEmptyProgram : Obligations.PowerOnIsLoadOfEmptyProgram := by
  unfold Obligations.PowerOnIsLoadOfEmptyProgram
  exact ⟨rfl, fun a => Memory.read_nil a.toNat, load_of_fits (origin := 0) (program := []) (Nat.zero_le memWords) State.reset⟩

/-- Settles O2: the assignments of a reset, after which the control state is that of a boundary. -/
theorem resetRegistersRestartsAtOrigin : Obligations.ResetRegistersRestartsAtOrigin := by
  unfold Obligations.ResetRegistersRestartsAtOrigin
  exact fun s => ⟨rfl, resetRegisters_atBoundary s, rfl⟩

/-! The micro-steps of each instruction (R400). -/

/-- Halt is the one table entry whose net effect can halt the block (R316). -/
theorem netEffect_instrOf_halted {op : Opcode} (hhalt : op ≠ .halt) (x : Addr) (s : State) :
    (netEffect (instrOf op x) s).halted = s.halted := by
  cases op with
  | halt => exact absurd rfl hhalt
  | input =>
    obtain ⟨_, _, _, _, _, hframe⟩ := netEffect_input_frame x s
    rw [instrOf, hframe]
  | _ => rfl

/-- An entry that neither waits nor halts takes the six micro-steps of the fetch and decode, its list and the step-end. -/
theorem cycleLength_instrOf {op : Opcode} (hinput : op ≠ .input) (hhalt : op ≠ .halt) (x : Addr) :
    cycleLength (instrOf op x) = (microOps op).length + 7 := by
  cases op with
  | input => exact absurd rfl hinput
  | halt => exact absurd rfl hhalt
  | _ => rfl

/-- A well-formed instruction is an opcode 0xF word's, or one that a table entry makes (R100, R104). -/
theorem undefined_or_instrOf_of_wellFormed {i : Instr} (h : i.wellFormed = true) :
    (∃ x, i = .undefinedOpcode0xF x) ∨ ∃ op x, i = instrOf op x := by
  have hcanonical := Instr.wellFormed_iff.mp h
  cases hop : i.opcode with
  | none => exact .inl ⟨_, hcanonical.symm.trans (Instr.canonical_of_opcode_none hop)⟩
  | some op => exact .inr ⟨op, _, hcanonical.symm.trans (Instr.canonical_of_opcode_some hop)⟩

/-- Settles O13: opcode 0xF ends at its Decode, Input after its answer and Halt without a step-end; every other entry runs its
whole list. -/
theorem microStepCountOfEveryInstruction : Obligations.MicroStepCountOfEveryInstruction := by
  unfold Obligations.MicroStepCountOfEveryInstruction
  intro s i hs hwf hword hanswer
  rcases undefined_or_instrOf_of_wellFormed hwf with ⟨x, rfl⟩ | ⟨op, x, rfl⟩
  · obtain ⟨-, -, -, hcycle, -⟩ := undefinedOpcodeRule x s
    exact ⟨_, hcycle hs hword⟩
  · by_cases hinput : op = .input
    · subst hinput
      obtain ⟨v, rest, hinputs⟩ := hanswer x rfl
      obtain ⟨-, -, -, hcycle⟩ := inputRuleWithAnswer x v rest s hinputs
      exact ⟨_, hcycle hs hword⟩
    · by_cases hhalt : op = .halt
      · subst hhalt
        obtain ⟨-, -, -, hcycle, -⟩ := haltRule x s
        exact ⟨_, hcycle hs hword⟩
      · have hrun := (netEffect_instrOf_halted hhalt x (fetch s)).trans (fetch_control hs).1
        rw [cycleLength_instrOf hinput hhalt]
        exact ⟨_, microCycle_netEffect hs hword hinput hrun⟩

end Sys2Proof.Machine
end
